-- ==== Sys2Proof/Word.lean ====
section
/-! DEFINITION. The value types of the block: bytes, nibbles, packet words, the two
agents, the parser event and the two result records (`10_state.md` R10 to R13). -/

namespace Sys2Proof

/-- A byte; bit 7 is the most significant (`00_scope.md` R5). -/
abbrev Byte := BitVec 8

/-- A 4-bit field: cable number, code index number, type or channel nibble (R5). -/
abbrev Nibble := BitVec 4

/-- The packet signal `u_pkt`: `p0` in bits 7..0 up to `p3` in bits 31..24 (`20_memory.md` R43). -/
abbrev PacketWord := BitVec 32

/-- The two parser instances (`10_state.md` R10). -/
inductive Agent where
  | serial
  | usb
  deriving DecidableEq, Repr, Inhabited

/-- The Parser Event (`10_state.md` R13). -/
inductive Event where
  | noMessage
  | channelMessage
  | sysexMessage
  | realtimeMessage
  deriving DecidableEq, Repr, Inhabited

/-- The Channel Message record (`10_state.md` R11), the registers `cm_*` (R16). -/
structure ChannelMessage where
  header : Byte
  data1  : Byte
  data2  : Byte
  cable  : Nibble
  deriving DecidableEq, Repr, Inhabited

/-- The Real-Time Message record (`10_state.md` R12), the registers `rt_*` (R17). -/
structure RealTimeMessage where
  message : Byte
  cable   : Nibble
  deriving DecidableEq, Repr, Inhabited

end Sys2Proof
end

