-- ==== Sys2Proof/Syntax.lean ====
section
/-! DEFINITION. The operations: one constructor per row of `spec/opcode_table.json`, 24 of format
`S8` (Serial Parser, `30_encoding.md` R61) and 16 of format `U32` (USB Packet Parser, R64). -/

namespace Sys2Proof

/-- An operation with its operands. A `U32` operation keeps every payload byte of its packet, padding
included, so that no bit of the symbol is dropped; what it ignores is said by its meaning. -/
inductive Instr where
  /-- `DATA`, `0vvvvvvv` (`41_serial_parser.md` R109). -/
  | data (b : Byte)
  /-- `NOTE_OFF`, `1000cccc` (`41_serial_parser.md` R102). -/
  | noteOff (c : Nibble)
  /-- `NOTE_ON`, `1001cccc` (`41_serial_parser.md` R103). -/
  | noteOn (c : Nibble)
  /-- `POLY_PRESSURE`, `1010cccc` (`41_serial_parser.md` R104). -/
  | polyPressure (c : Nibble)
  /-- `CONTROL_CHANGE`, `1011cccc` (`41_serial_parser.md` R105). -/
  | controlChange (c : Nibble)
  /-- `PROGRAM_CHANGE`, `1100cccc` (`41_serial_parser.md` R106). -/
  | programChange (c : Nibble)
  /-- `CHANNEL_PRESSURE`, `1101cccc` (`41_serial_parser.md` R107). -/
  | channelPressure (c : Nibble)
  /-- `PITCH_BEND`, `1110cccc` (`41_serial_parser.md` R108). -/
  | pitchBend (c : Nibble)
  /-- `SYSEX_START`, `11110000` (`41_serial_parser.md` R110). -/
  | sysexStart
  /-- `SC_F1`, `11110001` (`41_serial_parser.md` R113). -/
  | scF1
  /-- `SC_F2`, `11110010` (`41_serial_parser.md` R114). -/
  | scF2
  /-- `SC_F3`, `11110011` (`41_serial_parser.md` R115). -/
  | scF3
  /-- `SC_F4`, `11110100` (`41_serial_parser.md` R116). -/
  | scF4
  /-- `SC_F5`, `11110101` (`41_serial_parser.md` R117). -/
  | scF5
  /-- `SC_F6`, `11110110` (`41_serial_parser.md` R118). -/
  | scF6
  /-- `SYSEX_END`, `11110111` (`41_serial_parser.md` R111). -/
  | sysexEnd
  /-- `RT_F8`, `11111000` (`41_serial_parser.md` R120). -/
  | rtF8
  /-- `RT_F9`, `11111001` (`41_serial_parser.md` R121). -/
  | rtF9
  /-- `RT_FA`, `11111010` (`41_serial_parser.md` R122). -/
  | rtFA
  /-- `RT_FB`, `11111011` (`41_serial_parser.md` R123). -/
  | rtFB
  /-- `RT_FC`, `11111100` (`41_serial_parser.md` R124). -/
  | rtFC
  /-- `RT_FD`, `11111101` (`41_serial_parser.md` R125). -/
  | rtFD
  /-- `RT_FE`, `11111110` (`41_serial_parser.md` R126). -/
  | rtFE
  /-- `RT_FF`, `11111111` (`41_serial_parser.md` R127). -/
  | rtFF
  /-- `CIN_0_MISC`, `ddddddddccccccccbbbbbbbbnnnn0000` (`42_usb_parser.md` R149). -/
  | cin0Misc (cn : Nibble) (p1 p2 p3 : Byte)
  /-- `CIN_1_CABLE_EVENT`, `ddddddddccccccccbbbbbbbbnnnn0001` (`42_usb_parser.md` R150). -/
  | cin1CableEvent (cn : Nibble) (p1 p2 p3 : Byte)
  /-- `CIN_2_SYSCOM2`, `ddddddddccccccccbbbbbbbbnnnn0010` (`42_usb_parser.md` R151). -/
  | cin2Syscom2 (cn : Nibble) (p1 p2 p3 : Byte)
  /-- `CIN_3_SYSCOM3`, `ddddddddccccccccbbbbbbbbnnnn0011` (`42_usb_parser.md` R152). -/
  | cin3Syscom3 (cn : Nibble) (p1 p2 p3 : Byte)
  /-- `CIN_4_SYSEX_START_CONT`, `ddddddddccccccccbbbbbbbbnnnn0100` (`42_usb_parser.md` R153). -/
  | cin4SysexStartCont (cn : Nibble) (p1 p2 p3 : Byte)
  /-- `CIN_5_SYSEX_END1`, `ddddddddccccccccbbbbbbbbnnnn0101` (`42_usb_parser.md` R154). -/
  | cin5SysexEnd1 (cn : Nibble) (p1 p2 p3 : Byte)
  /-- `CIN_6_SYSEX_END2`, `ddddddddccccccccbbbbbbbbnnnn0110` (`42_usb_parser.md` R155). -/
  | cin6SysexEnd2 (cn : Nibble) (p1 p2 p3 : Byte)
  /-- `CIN_7_SYSEX_END3`, `ddddddddccccccccbbbbbbbbnnnn0111` (`42_usb_parser.md` R156). -/
  | cin7SysexEnd3 (cn : Nibble) (p1 p2 p3 : Byte)
  /-- `CIN_8_NOTE_OFF`, `ddddddddccccccccbbbbbbbbnnnn1000` (`42_usb_parser.md` R142). -/
  | cin8NoteOff (cn : Nibble) (p1 p2 p3 : Byte)
  /-- `CIN_9_NOTE_ON`, `ddddddddccccccccbbbbbbbbnnnn1001` (`42_usb_parser.md` R143). -/
  | cin9NoteOn (cn : Nibble) (p1 p2 p3 : Byte)
  /-- `CIN_A_POLY_PRESSURE`, `ddddddddccccccccbbbbbbbbnnnn1010` (`42_usb_parser.md` R144). -/
  | cinAPolyPressure (cn : Nibble) (p1 p2 p3 : Byte)
  /-- `CIN_B_CONTROL_CHANGE`, `ddddddddccccccccbbbbbbbbnnnn1011` (`42_usb_parser.md` R145). -/
  | cinBControlChange (cn : Nibble) (p1 p2 p3 : Byte)
  /-- `CIN_C_PROGRAM_CHANGE`, `ddddddddccccccccbbbbbbbbnnnn1100` (`42_usb_parser.md` R146). -/
  | cinCProgramChange (cn : Nibble) (p1 p2 p3 : Byte)
  /-- `CIN_D_CHANNEL_PRESSURE`, `ddddddddccccccccbbbbbbbbnnnn1101` (`42_usb_parser.md` R147). -/
  | cinDChannelPressure (cn : Nibble) (p1 p2 p3 : Byte)
  /-- `CIN_E_PITCH_BEND`, `ddddddddccccccccbbbbbbbbnnnn1110` (`42_usb_parser.md` R148). -/
  | cinEPitchBend (cn : Nibble) (p1 p2 p3 : Byte)
  /-- `CIN_F_SINGLE_BYTE`, `ddddddddccccccccbbbbbbbbnnnn1111` (`42_usb_parser.md` R157). -/
  | cinFSingleByte (cn : Nibble) (p1 p2 p3 : Byte)
  deriving DecidableEq, Repr

end Sys2Proof
end

