-- ==== Sys2Proof/WellFormed.lean ====
section
/-! DEFINITION. When an operation is a term the encodings have a symbol for, and when a packet's
payload fits its code index. -/

namespace Sys2Proof

/-- The operation is the reading of some symbol. Every field but one has exactly the width its encoding
gives it; the operand of `DATA` is a byte with bit 7 clear (`41_serial_parser.md` R109). -/
def Instr.wellFormed : Instr → Bool
  | .data b => b < 0x80#8
  | _ => true

/-- A channel packet whose payload fits its code index `t`: `p1` is a status byte of type `t` and the
data bytes it uses have bit 7 clear. The block never checks this (`93_implementation_defined.md` U11). -/
def channelPayloadFits (t : Nibble) (twoData : Bool) (p1 p2 p3 : Byte) : Bool :=
  p1.extractLsb' 4 4 == t && p2 < 0x80#8 && (!twoData || p3 < 0x80#8)

/-- The payload fits the code index, for the operations that deliver it as a message: the premise
"well-formed packet" of `10_state.md` R11 and R12. A premise of claims only: the decoder accepts every
packet and no operation looks at this (`92_eei_decisions.md` D16). -/
def Instr.payloadFits : Instr → Bool
  | .cin8NoteOff _ p1 p2 p3 => channelPayloadFits 0x8#4 true p1 p2 p3
  | .cin9NoteOn _ p1 p2 p3 => channelPayloadFits 0x9#4 true p1 p2 p3
  | .cinAPolyPressure _ p1 p2 p3 => channelPayloadFits 0xA#4 true p1 p2 p3
  | .cinBControlChange _ p1 p2 p3 => channelPayloadFits 0xB#4 true p1 p2 p3
  | .cinCProgramChange _ p1 p2 p3 => channelPayloadFits 0xC#4 false p1 p2 p3
  | .cinDChannelPressure _ p1 p2 p3 => channelPayloadFits 0xD#4 false p1 p2 p3
  | .cinEPitchBend _ p1 p2 p3 => channelPayloadFits 0xE#4 true p1 p2 p3
  | .cinFSingleByte _ p1 _ _ => 0xF8#8 ≤ p1
  | _ => true

end Sys2Proof
end

