-- ==== Sys2Proof/Decode.lean ====
section
/-! DEFINITION. The decoder of both formats, total on any bytes, the encoder, and the opcode table as
rows of masks and patterns (`30_encoding.md` R60 to R65). -/

namespace Sys2Proof

/-- `v[7:4]`, the high nibble (`00_scope.md` R5). -/
def hiNibble (v : Byte) : Nibble := v.extractLsb' 4 4

/-- `v[3:0]`, the low nibble (R5). -/
def loNibble (v : Byte) : Nibble := v.extractLsb' 0 4

/-- The byte with high nibble `hi` and low nibble `lo`: a status byte from its type and channel
(`30_encoding.md` R67), or packet byte 0 from `CN` and `CIN` (R63). -/
def statusByte (hi lo : Nibble) : Byte := hi ++ lo

/-- Byte `k` of the packet on `u_pkt`: `p0 = u_pkt[7:0]` to `p3 = u_pkt[31:24]` (`20_memory.md` R43). -/
def packetByte (w : PacketWord) (k : Nat) : Byte := w.extractLsb' (8 * k) 8

/-- The word `u_pkt` of the packet `p0 p1 p2 p3` (R43). -/
def packetWord (p0 p1 p2 p3 : Byte) : PacketWord := p3 ++ p2 ++ p1 ++ p0

/-- The agent whose input symbol the operation is: `S8` symbols drive the Serial Parser, `U32`
symbols the USB Packet Parser (`30_encoding.md`, opening paragraph). -/
def Instr.agent : Instr → Agent
  | .data _ => .serial
  | .noteOff _ => .serial
  | .noteOn _ => .serial
  | .polyPressure _ => .serial
  | .controlChange _ => .serial
  | .programChange _ => .serial
  | .channelPressure _ => .serial
  | .pitchBend _ => .serial
  | .sysexStart => .serial
  | .scF1 => .serial
  | .scF2 => .serial
  | .scF3 => .serial
  | .scF4 => .serial
  | .scF5 => .serial
  | .scF6 => .serial
  | .sysexEnd => .serial
  | .rtF8 => .serial
  | .rtF9 => .serial
  | .rtFA => .serial
  | .rtFB => .serial
  | .rtFC => .serial
  | .rtFD => .serial
  | .rtFE => .serial
  | .rtFF => .serial
  | .cin0Misc _ _ _ _ => .usb
  | .cin1CableEvent _ _ _ _ => .usb
  | .cin2Syscom2 _ _ _ _ => .usb
  | .cin3Syscom3 _ _ _ _ => .usb
  | .cin4SysexStartCont _ _ _ _ => .usb
  | .cin5SysexEnd1 _ _ _ _ => .usb
  | .cin6SysexEnd2 _ _ _ _ => .usb
  | .cin7SysexEnd3 _ _ _ _ => .usb
  | .cin8NoteOff _ _ _ _ => .usb
  | .cin9NoteOn _ _ _ _ => .usb
  | .cinAPolyPressure _ _ _ _ => .usb
  | .cinBControlChange _ _ _ _ => .usb
  | .cinCProgramChange _ _ _ _ => .usb
  | .cinDChannelPressure _ _ _ _ => .usb
  | .cinEPitchBend _ _ _ _ => .usb
  | .cinFSingleByte _ _ _ _ => .usb

/-! ### Decoding -/

/-- The operation of a serial byte (`30_encoding.md` R61, R62): every byte has exactly one. -/
def decodeSerial (b : Byte) : Instr :=
  if b < 0x80#8 then .data b
  else
    match (hiNibble b).toNat with
    | 8 => .noteOff (loNibble b)
    | 9 => .noteOn (loNibble b)
    | 10 => .polyPressure (loNibble b)
    | 11 => .controlChange (loNibble b)
    | 12 => .programChange (loNibble b)
    | 13 => .channelPressure (loNibble b)
    | 14 => .pitchBend (loNibble b)
    | _ =>
      match (loNibble b).toNat with
      | 0 => .sysexStart
      | 1 => .scF1
      | 2 => .scF2
      | 3 => .scF3
      | 4 => .scF4
      | 5 => .scF5
      | 6 => .scF6
      | 7 => .sysexEnd
      | 8 => .rtF8
      | 9 => .rtF9
      | 10 => .rtFA
      | 11 => .rtFB
      | 12 => .rtFC
      | 13 => .rtFD
      | 14 => .rtFE
      | _ => .rtFF

/-- The operation of the packet `p0 p1 p2 p3` (R63 to R65): selected by `CIN = p0[3:0]` alone. -/
def decodePacketBytes (p0 p1 p2 p3 : Byte) : Instr :=
  let cn := hiNibble p0
  match (loNibble p0).toNat with
  | 0 => .cin0Misc cn p1 p2 p3
  | 1 => .cin1CableEvent cn p1 p2 p3
  | 2 => .cin2Syscom2 cn p1 p2 p3
  | 3 => .cin3Syscom3 cn p1 p2 p3
  | 4 => .cin4SysexStartCont cn p1 p2 p3
  | 5 => .cin5SysexEnd1 cn p1 p2 p3
  | 6 => .cin6SysexEnd2 cn p1 p2 p3
  | 7 => .cin7SysexEnd3 cn p1 p2 p3
  | 8 => .cin8NoteOff cn p1 p2 p3
  | 9 => .cin9NoteOn cn p1 p2 p3
  | 10 => .cinAPolyPressure cn p1 p2 p3
  | 11 => .cinBControlChange cn p1 p2 p3
  | 12 => .cinCProgramChange cn p1 p2 p3
  | 13 => .cinDChannelPressure cn p1 p2 p3
  | 14 => .cinEPitchBend cn p1 p2 p3
  | _ => .cinFSingleByte cn p1 p2 p3

/-- The operation of the word on `u_pkt`. -/
def decodePacket (w : PacketWord) : Instr :=
  decodePacketBytes (packetByte w 0) (packetByte w 1) (packetByte w 2) (packetByte w 3)

/-- Why a list of bytes is not one symbol. The block itself never sees such a list: cutting the
streams into symbols is transport I/O (`20_memory.md` R45). -/
inductive DecodeError where
  /-- Not exactly one byte offered as a serial symbol. -/
  | notOneByte
  /-- Not exactly four bytes offered as a packet. -/
  | notFourBytes
  deriving DecidableEq, Repr

/-- The operation of the bytes of ONE symbol of an agent, in the order received. -/
def decode : Agent → List Byte → Except DecodeError Instr
  | .serial, [b] => .ok (decodeSerial b)
  | .serial, _ => .error .notOneByte
  | .usb, [p0, p1, p2, p3] => .ok (decodePacketBytes p0 p1 p2 p3)
  | .usb, _ => .error .notFourBytes

/-! ### Encoding -/

/-- The bytes of the operation's symbol, in the order received (R61, R64). -/
def encode : Instr → List Byte
  | .data b => [b]
  | .noteOff c => [statusByte 0x8#4 c]
  | .noteOn c => [statusByte 0x9#4 c]
  | .polyPressure c => [statusByte 0xA#4 c]
  | .controlChange c => [statusByte 0xB#4 c]
  | .programChange c => [statusByte 0xC#4 c]
  | .channelPressure c => [statusByte 0xD#4 c]
  | .pitchBend c => [statusByte 0xE#4 c]
  | .sysexStart => [0xF0#8]
  | .scF1 => [0xF1#8]
  | .scF2 => [0xF2#8]
  | .scF3 => [0xF3#8]
  | .scF4 => [0xF4#8]
  | .scF5 => [0xF5#8]
  | .scF6 => [0xF6#8]
  | .sysexEnd => [0xF7#8]
  | .rtF8 => [0xF8#8]
  | .rtF9 => [0xF9#8]
  | .rtFA => [0xFA#8]
  | .rtFB => [0xFB#8]
  | .rtFC => [0xFC#8]
  | .rtFD => [0xFD#8]
  | .rtFE => [0xFE#8]
  | .rtFF => [0xFF#8]
  | .cin0Misc cn p1 p2 p3 => [statusByte cn 0x0#4, p1, p2, p3]
  | .cin1CableEvent cn p1 p2 p3 => [statusByte cn 0x1#4, p1, p2, p3]
  | .cin2Syscom2 cn p1 p2 p3 => [statusByte cn 0x2#4, p1, p2, p3]
  | .cin3Syscom3 cn p1 p2 p3 => [statusByte cn 0x3#4, p1, p2, p3]
  | .cin4SysexStartCont cn p1 p2 p3 => [statusByte cn 0x4#4, p1, p2, p3]
  | .cin5SysexEnd1 cn p1 p2 p3 => [statusByte cn 0x5#4, p1, p2, p3]
  | .cin6SysexEnd2 cn p1 p2 p3 => [statusByte cn 0x6#4, p1, p2, p3]
  | .cin7SysexEnd3 cn p1 p2 p3 => [statusByte cn 0x7#4, p1, p2, p3]
  | .cin8NoteOff cn p1 p2 p3 => [statusByte cn 0x8#4, p1, p2, p3]
  | .cin9NoteOn cn p1 p2 p3 => [statusByte cn 0x9#4, p1, p2, p3]
  | .cinAPolyPressure cn p1 p2 p3 => [statusByte cn 0xA#4, p1, p2, p3]
  | .cinBControlChange cn p1 p2 p3 => [statusByte cn 0xB#4, p1, p2, p3]
  | .cinCProgramChange cn p1 p2 p3 => [statusByte cn 0xC#4, p1, p2, p3]
  | .cinDChannelPressure cn p1 p2 p3 => [statusByte cn 0xD#4, p1, p2, p3]
  | .cinEPitchBend cn p1 p2 p3 => [statusByte cn 0xE#4, p1, p2, p3]
  | .cinFSingleByte cn p1 p2 p3 => [statusByte cn 0xF#4, p1, p2, p3]

/-- The operation's symbol as one number, first byte in bits 7..0 (R43): the word the opcode table's
masks and patterns are about. -/
def encodeWord (i : Instr) : BitVec 32 :=
  match encode i with
  | [b] => b.setWidth 32
  | [p0, p1, p2, p3] => packetWord p0 p1 p2 p3
  | _ => 0#32

/-! ### The opcode table -/

/-- A row of `opcode_table.json`: a symbol `w` of the agent's format belongs to the row when
`w &&& mask = pattern`. -/
structure OpcodeRow where
  mnemonic : String
  agent    : Agent
  mask     : BitVec 32
  pattern  : BitVec 32
  deriving DecidableEq, Repr

/-- The symbol belongs to the row. -/
def OpcodeRow.covers (r : OpcodeRow) (w : BitVec 32) : Bool := w &&& r.mask == r.pattern

/-- The 40 rows of `opcode_table.json`, in its order. -/
def opcodeTable : List OpcodeRow :=
  [⟨"DATA", .serial, 0x80#32, 0x00#32⟩,
   ⟨"NOTE_OFF", .serial, 0xF0#32, 0x80#32⟩,
   ⟨"NOTE_ON", .serial, 0xF0#32, 0x90#32⟩,
   ⟨"POLY_PRESSURE", .serial, 0xF0#32, 0xA0#32⟩,
   ⟨"CONTROL_CHANGE", .serial, 0xF0#32, 0xB0#32⟩,
   ⟨"PROGRAM_CHANGE", .serial, 0xF0#32, 0xC0#32⟩,
   ⟨"CHANNEL_PRESSURE", .serial, 0xF0#32, 0xD0#32⟩,
   ⟨"PITCH_BEND", .serial, 0xF0#32, 0xE0#32⟩] ++
  [⟨"SYSEX_START", .serial, 0xFF#32, 0xF0#32⟩,
   ⟨"SC_F1", .serial, 0xFF#32, 0xF1#32⟩,
   ⟨"SC_F2", .serial, 0xFF#32, 0xF2#32⟩,
   ⟨"SC_F3", .serial, 0xFF#32, 0xF3#32⟩,
   ⟨"SC_F4", .serial, 0xFF#32, 0xF4#32⟩,
   ⟨"SC_F5", .serial, 0xFF#32, 0xF5#32⟩,
   ⟨"SC_F6", .serial, 0xFF#32, 0xF6#32⟩,
   ⟨"SYSEX_END", .serial, 0xFF#32, 0xF7#32⟩] ++
  [⟨"RT_F8", .serial, 0xFF#32, 0xF8#32⟩,
   ⟨"RT_F9", .serial, 0xFF#32, 0xF9#32⟩,
   ⟨"RT_FA", .serial, 0xFF#32, 0xFA#32⟩,
   ⟨"RT_FB", .serial, 0xFF#32, 0xFB#32⟩,
   ⟨"RT_FC", .serial, 0xFF#32, 0xFC#32⟩,
   ⟨"RT_FD", .serial, 0xFF#32, 0xFD#32⟩,
   ⟨"RT_FE", .serial, 0xFF#32, 0xFE#32⟩,
   ⟨"RT_FF", .serial, 0xFF#32, 0xFF#32⟩] ++
  [⟨"CIN_0_MISC", .usb, 0x0F#32, 0x00#32⟩,
   ⟨"CIN_1_CABLE_EVENT", .usb, 0x0F#32, 0x01#32⟩,
   ⟨"CIN_2_SYSCOM2", .usb, 0x0F#32, 0x02#32⟩,
   ⟨"CIN_3_SYSCOM3", .usb, 0x0F#32, 0x03#32⟩,
   ⟨"CIN_4_SYSEX_START_CONT", .usb, 0x0F#32, 0x04#32⟩,
   ⟨"CIN_5_SYSEX_END1", .usb, 0x0F#32, 0x05#32⟩,
   ⟨"CIN_6_SYSEX_END2", .usb, 0x0F#32, 0x06#32⟩,
   ⟨"CIN_7_SYSEX_END3", .usb, 0x0F#32, 0x07#32⟩] ++
  [⟨"CIN_8_NOTE_OFF", .usb, 0x0F#32, 0x08#32⟩,
   ⟨"CIN_9_NOTE_ON", .usb, 0x0F#32, 0x09#32⟩,
   ⟨"CIN_A_POLY_PRESSURE", .usb, 0x0F#32, 0x0A#32⟩,
   ⟨"CIN_B_CONTROL_CHANGE", .usb, 0x0F#32, 0x0B#32⟩,
   ⟨"CIN_C_PROGRAM_CHANGE", .usb, 0x0F#32, 0x0C#32⟩,
   ⟨"CIN_D_CHANNEL_PRESSURE", .usb, 0x0F#32, 0x0D#32⟩,
   ⟨"CIN_E_PITCH_BEND", .usb, 0x0F#32, 0x0E#32⟩,
   ⟨"CIN_F_SINGLE_BYTE", .usb, 0x0F#32, 0x0F#32⟩]

/-- The row of an operation. -/
def Instr.row : Instr → OpcodeRow
  | .data _ => ⟨"DATA", .serial, 0x80#32, 0x00#32⟩
  | .noteOff _ => ⟨"NOTE_OFF", .serial, 0xF0#32, 0x80#32⟩
  | .noteOn _ => ⟨"NOTE_ON", .serial, 0xF0#32, 0x90#32⟩
  | .polyPressure _ => ⟨"POLY_PRESSURE", .serial, 0xF0#32, 0xA0#32⟩
  | .controlChange _ => ⟨"CONTROL_CHANGE", .serial, 0xF0#32, 0xB0#32⟩
  | .programChange _ => ⟨"PROGRAM_CHANGE", .serial, 0xF0#32, 0xC0#32⟩
  | .channelPressure _ => ⟨"CHANNEL_PRESSURE", .serial, 0xF0#32, 0xD0#32⟩
  | .pitchBend _ => ⟨"PITCH_BEND", .serial, 0xF0#32, 0xE0#32⟩
  | .sysexStart => ⟨"SYSEX_START", .serial, 0xFF#32, 0xF0#32⟩
  | .scF1 => ⟨"SC_F1", .serial, 0xFF#32, 0xF1#32⟩
  | .scF2 => ⟨"SC_F2", .serial, 0xFF#32, 0xF2#32⟩
  | .scF3 => ⟨"SC_F3", .serial, 0xFF#32, 0xF3#32⟩
  | .scF4 => ⟨"SC_F4", .serial, 0xFF#32, 0xF4#32⟩
  | .scF5 => ⟨"SC_F5", .serial, 0xFF#32, 0xF5#32⟩
  | .scF6 => ⟨"SC_F6", .serial, 0xFF#32, 0xF6#32⟩
  | .sysexEnd => ⟨"SYSEX_END", .serial, 0xFF#32, 0xF7#32⟩
  | .rtF8 => ⟨"RT_F8", .serial, 0xFF#32, 0xF8#32⟩
  | .rtF9 => ⟨"RT_F9", .serial, 0xFF#32, 0xF9#32⟩
  | .rtFA => ⟨"RT_FA", .serial, 0xFF#32, 0xFA#32⟩
  | .rtFB => ⟨"RT_FB", .serial, 0xFF#32, 0xFB#32⟩
  | .rtFC => ⟨"RT_FC", .serial, 0xFF#32, 0xFC#32⟩
  | .rtFD => ⟨"RT_FD", .serial, 0xFF#32, 0xFD#32⟩
  | .rtFE => ⟨"RT_FE", .serial, 0xFF#32, 0xFE#32⟩
  | .rtFF => ⟨"RT_FF", .serial, 0xFF#32, 0xFF#32⟩
  | .cin0Misc _ _ _ _ => ⟨"CIN_0_MISC", .usb, 0x0F#32, 0x00#32⟩
  | .cin1CableEvent _ _ _ _ => ⟨"CIN_1_CABLE_EVENT", .usb, 0x0F#32, 0x01#32⟩
  | .cin2Syscom2 _ _ _ _ => ⟨"CIN_2_SYSCOM2", .usb, 0x0F#32, 0x02#32⟩
  | .cin3Syscom3 _ _ _ _ => ⟨"CIN_3_SYSCOM3", .usb, 0x0F#32, 0x03#32⟩
  | .cin4SysexStartCont _ _ _ _ => ⟨"CIN_4_SYSEX_START_CONT", .usb, 0x0F#32, 0x04#32⟩
  | .cin5SysexEnd1 _ _ _ _ => ⟨"CIN_5_SYSEX_END1", .usb, 0x0F#32, 0x05#32⟩
  | .cin6SysexEnd2 _ _ _ _ => ⟨"CIN_6_SYSEX_END2", .usb, 0x0F#32, 0x06#32⟩
  | .cin7SysexEnd3 _ _ _ _ => ⟨"CIN_7_SYSEX_END3", .usb, 0x0F#32, 0x07#32⟩
  | .cin8NoteOff _ _ _ _ => ⟨"CIN_8_NOTE_OFF", .usb, 0x0F#32, 0x08#32⟩
  | .cin9NoteOn _ _ _ _ => ⟨"CIN_9_NOTE_ON", .usb, 0x0F#32, 0x09#32⟩
  | .cinAPolyPressure _ _ _ _ => ⟨"CIN_A_POLY_PRESSURE", .usb, 0x0F#32, 0x0A#32⟩
  | .cinBControlChange _ _ _ _ => ⟨"CIN_B_CONTROL_CHANGE", .usb, 0x0F#32, 0x0B#32⟩
  | .cinCProgramChange _ _ _ _ => ⟨"CIN_C_PROGRAM_CHANGE", .usb, 0x0F#32, 0x0C#32⟩
  | .cinDChannelPressure _ _ _ _ => ⟨"CIN_D_CHANNEL_PRESSURE", .usb, 0x0F#32, 0x0D#32⟩
  | .cinEPitchBend _ _ _ _ => ⟨"CIN_E_PITCH_BEND", .usb, 0x0F#32, 0x0E#32⟩
  | .cinFSingleByte _ _ _ _ => ⟨"CIN_F_SINGLE_BYTE", .usb, 0x0F#32, 0x0F#32⟩

/-! ### Words as the opcode table numbers them -/

/-- One input symbol: a byte for the Serial Parser or a packet for the USB Packet Parser. -/
inductive Symbol where
  | byte (b : Byte)
  | packet (w : PacketWord)
  deriving DecidableEq, Repr

/-- The operation of a symbol. -/
def Symbol.decode : Symbol → Instr
  | .byte b => decodeSerial b
  | .packet w => decodePacket w

/-- The symbol meant by the number `w` of `nbits` bits, bit 0 the least significant bit of the first
byte. A number says nothing of the port it is for: 9 to 32 bits are a packet (bits above `nbits` zero)
and 8 bits are a serial byte, but for `0x01` to `0x0F`, which are read as the packet whose fixed bits
they are, since a `U32` row fixes its four lowest bits only (DESIGN CHOICE, log 11). -/
def tableSymbol (nbits w : Nat) : Option Symbol :=
  if nbits = 8 then
    if 0 < w ∧ w < 16 then some (.packet (BitVec.ofNat 32 w))
    else if w < 256 then some (.byte (BitVec.ofNat 8 w))
    else none
  else if 8 < nbits ∧ nbits ≤ 32 ∧ w < 2 ^ 32 then some (.packet (BitVec.ofNat 32 w))
  else none

/-- The operation the decoder reads from the number `w` of `nbits` bits. -/
def decodeTableWord (nbits w : Nat) : Option Instr := (tableSymbol nbits w).map Symbol.decode

end Sys2Proof
end

