-- ==== Sys2Proof/Config.lean ====
section
/-! DEFINITION. What an implementation fixes (the capacity of the SysEx buffers) and the
free values, which have no body: nothing in Lean can tell what they are. -/

namespace Sys2Proof

/-- The one implementation parameter (`00_scope.md` R4). The capacity is held as the number of bytes
beyond the one that takes `0xF0`, so that the excluded capacity 0 cannot be written down
(`93_implementation_defined.md` U10). -/
structure Config where
  spare : Nat
  deriving DecidableEq, Repr, Inhabited

/-- `SYSEX_BUFFER_SIZE`, `CAP` in the spec's pseudocode: at least 1 (R4). -/
def Config.sysexBufferSize (c : Config) : Nat := c.spare + 1

/-- `LENW = ceil(log2(CAP + 1))`, the width of `sx_len` (R4). -/
def Config.lenWidth (c : Config) : Nat := Nat.log2 c.sysexBufferSize + 1

/-- `IDXW = max(1, ceil(log2(CAP)))`, the width of a buffer index (R4). -/
def Config.indexWidth (c : Config) : Nat :=
  if c.spare = 0 then 1 else Nat.log2 c.spare + 1

/-- DESIGN CHOICE (log 1, safe): the parameter of the machine that `State.reset` describes. The spec
leaves it open (`92_eei_decisions.md` D2), so it has no body. -/
opaque Config.implementation : Config

/-- DESIGN CHOICE (log 2, safe): what `cm_*` of an instance hold after its reset number `n`,
which the spec leaves unspecified (`10_state.md` R32, `93_implementation_defined.md` U4). -/
opaque Config.channelAtReset : Agent → Nat → ChannelMessage

/-- DESIGN CHOICE (log 2, safe): what `rt_*` of an instance hold after its reset number `n` (R32, U4). -/
opaque Config.realTimeAtReset : Agent → Nat → RealTimeMessage

/-- DESIGN CHOICE (log 4, safe): what the read port of an instance, reset `n` times, gives at an index
where the buffer's content is unspecified (`20_memory.md` R47, R48, `93_implementation_defined.md` U3),
as a function of the stored cells and the index. -/
opaque Config.staleByte : Agent → Nat → List Host.Cell → Nat → Byte

end Sys2Proof
end

