-- ==== Sys2Proof/Machine/State.lean ====
section
/-! DEFINITION. The state of the block as plain data, its reset values, and the reasons a step could
stop (`10_state.md`). -/

namespace Sys2Proof.Machine

/-- The content of a SysEx buffer (`10_state.md` R21, `20_memory.md` R40): the bytes written since reset
with their indexes, in the canonical form `Memory.wf`. An index that is not listed has no value: nothing
has written it since reset, and the spec leaves its content unspecified (log 3, safe). -/
abbrev Memory := List Host.Cell

/-- One SysEx accumulator (`10_state.md` R20). -/
structure SxAccumulator where
  /-- `sx_buf` (R21). -/
  buf        : Memory
  /-- `sx_len` (R22); a number, below `2 ^ LENW` because at most `CAP` (log 9). -/
  len        : Nat
  /-- `sx_cable` (R23). -/
  cable      : Nibble
  /-- `sx_collecting` (R24). -/
  collecting : Bool
  deriving DecidableEq, Repr

/-- The registers of the Serial Parser (`10_state.md` section 3). -/
structure SerialParser where
  /-- `run_status` (R14): `0x00` when there is no running status. -/
  runStatus : Byte
  /-- `cnt` (R15): 1 (`true`) when the first of two data bytes is held in `cm_data1`. -/
  cnt       : Bool
  /-- `cm_header`, `cm_data1`, `cm_data2`, `cm_cable` (R16). -/
  cm        : ChannelMessage
  /-- `rt_message`, `rt_cable` (R17). -/
  rt        : RealTimeMessage
  /-- `event` (R18). -/
  event     : Event
  /-- `sx_buf`, `sx_len`, `sx_cable`, `sx_collecting` (R20). -/
  sx        : SxAccumulator
  /-- The model's own field: how many resets there have been. It only picks the free values of the next
  reset (log 2). -/
  resets    : Nat
  deriving DecidableEq, Repr

/-- The registers of the USB Packet Parser: no `run_status`, no `cnt` (`10_state.md` R19). -/
structure UsbParser where
  /-- `cm_header`, `cm_data1`, `cm_data2`, `cm_cable` (R16). -/
  cm     : ChannelMessage
  /-- `rt_message`, `rt_cable` (R17). -/
  rt     : RealTimeMessage
  /-- `event` (R18). -/
  event  : Event
  /-- `sx_buf`, `sx_len`, `sx_cable`, `sx_collecting` (R20). -/
  sx     : SxAccumulator
  /-- The model's own field, as in `SerialParser`. -/
  resets : Nat
  deriving DecidableEq, Repr

/-- What the driver presents to one instance at one clock edge (`10_state.md` R34). -/
inductive Input where
  /-- The signals `rst`, `s_valid`, `s_byte` of the Serial Parser. -/
  | serial (rst valid : Bool) (byte : Byte)
  /-- The signals `rst`, `u_valid`, `u_pkt` of the USB Packet Parser. -/
  | usb (rst valid : Bool) (pkt : PacketWord)
  deriving DecidableEq, Repr

/-- The whole state: the two instances, which share nothing but the parameter (`10_state.md` R10, R33),
and the model's own list of the clock edges still to come, oldest first (log 6). -/
structure State where
  /-- `SYSEX_BUFFER_SIZE`, the same for both parsers, changed by nothing (`00_scope.md` R4, log 1). -/
  cfg    : Config
  serial : SerialParser
  usb    : UsbParser
  /-- The model's own field: the input edges the environment is still to present. -/
  input  : List Input
  deriving DecidableEq, Repr

/-- Reasons a step stops with a fault: none exist. "There are no exceptions/fatal aborts in this core"
(`60_exceptions.md` R170), so the type has no constructor and no step can raise one. -/
inductive Fault where
  deriving DecidableEq, Repr

/-- Reasons a step is refused. -/
inductive Refusal where
  /-- Raised only by an arm of `exec` for an operation that has no meaning in the model yet; no arm
  raises it now. Safe: such a step would stop where the hardware goes on. -/
  | notModelled (mnemonic : String)
  deriving DecidableEq, Repr

/-! ### Reset values (`10_state.md` R32, `70_reset_and_hazards.md` R200) -/

/-- The accumulator after reset: no message stored, no byte written. -/
def SxAccumulator.atReset : SxAccumulator :=
  { buf := [], len := 0, cable := 0#4, collecting := false }

/-- The Serial Parser after its reset number `n`. The result registers, which R32 leaves unspecified,
take free values (DESIGN CHOICE, log 2). -/
def SerialParser.atReset (n : Nat) : SerialParser :=
  { runStatus := 0x00#8
    cnt := false
    cm := Config.channelAtReset .serial n
    rt := Config.realTimeAtReset .serial n
    event := .noMessage
    sx := .atReset
    resets := n + 1 }

/-- The USB Packet Parser after its reset number `n`. -/
def UsbParser.atReset (n : Nat) : UsbParser :=
  { cm := Config.channelAtReset .usb n
    rt := Config.realTimeAtReset .usb n
    event := .noMessage
    sx := .atReset
    resets := n + 1 }

/-- The machine right after each instance has been reset once (R203), with nothing presented to it. -/
def State.reset : State :=
  { cfg := Config.implementation
    serial := .atReset 0
    usb := .atReset 0
    input := [] }

end Sys2Proof.Machine
end

