-- ==== Sys2Proof/Machine/Operands.lean ====
section
/-! DEFINITION. Fields and encodings of what the operations work on: header fields and data byte count,
event codes, payload counts, message names (`30_encoding.md` sections 2 and 3). -/

namespace Sys2Proof.Machine

/-- The message-type nibble `h[7:4]` of a header (`30_encoding.md` R67). -/
def headerType (h : Byte) : Nibble := hiNibble h

/-- The channel nibble `h[3:0]` of a header (R67). -/
def headerChannel (h : Byte) : Nibble := loNibble h

/-- `ndata(h)` (R67): how many data bytes complete a message with header `h`. It is defined for the
type nibbles `0x8` to `0xE` only and "never applied to another value", for which it is `none` here
(DEDUCED, log 13, safe). -/
def ndata (h : Byte) : Option Nat :=
  match (headerType h).toNat with
  | 8 | 9 | 10 | 11 | 14 => some 2
  | 12 | 13 => some 1
  | _ => none

/-- The 2-bit code of an event (`30_encoding.md` R66). -/
def eventCode : Event → BitVec 2
  | .noMessage => 0#2
  | .channelMessage => 1#2
  | .sysexMessage => 2#2
  | .realtimeMessage => 3#2

/-- The event of a code: all four codes are used (R66). -/
def eventOfCode (c : BitVec 2) : Event :=
  match c.toNat with
  | 0 => .noMessage
  | 1 => .channelMessage
  | 2 => .sysexMessage
  | _ => .realtimeMessage

/-- How many payload bytes the operation of a code index number uses; the rest is padding
(`30_encoding.md` R64, third column, and R70). -/
def payloadCount (cin : Nibble) : Nat :=
  match cin.toNat with
  | 0 | 1 | 2 | 3 => 0
  | 5 | 15 => 1
  | 6 | 12 | 13 => 2
  | _ => 3

/-- The names of the real-time messages (`30_encoding.md` R68). They have no effect on behaviour. -/
inductive RealTimeName where
  | timingClock
  | start
  | continue_
  | stop
  | activeSensing
  | systemReset
  | undefinedVariant
  deriving DecidableEq, Repr

/-- The name of a real-time status byte; none below `0xF8` (R68). -/
def realTimeName (b : Byte) : Option RealTimeName :=
  match b.toNat with
  | 0xF8 => some .timingClock
  | 0xFA => some .start
  | 0xFB => some .continue_
  | 0xFC => some .stop
  | 0xFE => some .activeSensing
  | 0xFF => some .systemReset
  | 0xF9 | 0xFD => some .undefinedVariant
  | _ => none

end Sys2Proof.Machine
end

