-- ==== Sys2Proof/Machine/Flags.lean ====
section
/-! DEFINITION. What the flags `sx_collecting` and `cnt` say: the serial control state, which is a
function of the registers and not a register, and the USB cable match predicate. The block has no other
flag (`10_state.md` R28). -/

namespace Sys2Proof.Machine

/-- The names of the control states (`10_state.md` R27, `30_encoding.md` R69). -/
inductive ControlState where
  | idle
  | chan
  | sysex
  deriving DecidableEq, Repr

/-- The control state of the Serial Parser (R27). -/
def controlState (p : SerialParser) : ControlState :=
  if p.sx.collecting then .sysex
  else if p.runStatus ≠ 0x00#8 then .chan
  else .idle

/-- `open_on(CN)` (`42_usb_parser.md` R158): a message is open and its cable tag is `CN`. -/
def openOn (a : SxAccumulator) (cn : Nibble) : Bool := a.collecting && a.cable == cn

/-- `sx_buf[sx_len - 1] = 0xF7`: the terminator fitted (`40_sysex_accumulator.md` R97). -/
def terminatorStored (bytes : List Byte) : Bool := bytes.getLast? == some 0xF7#8

end Sys2Proof.Machine
end

