-- ==== Sys2Proof/Machine/Ops.lean ====
section
/-! DEFINITION. The shared operations: the buffer's reads and writes, the four accumulator primitives,
emitting, the frame of a step of each instance, and reset. There is no operation for taking an exception
or returning from one: the block has neither (`60_exceptions.md` R170, R174, R176). -/

namespace Sys2Proof.Machine

/-! ### The SysEx buffer as memory (`20_memory.md` R40, R46) -/

/-- The canonical form: indexes strictly rising. No entry can equal what an unlisted index reads as,
which is no value. -/
abbrev Memory.wf (m : Memory) : Prop := m.Pairwise (fun c d => c.1 < d.1)

/-- `MemRead(i, 1)`, the byte at index `i`; no value where nothing has been written since reset. -/
def Memory.read : Memory → Nat → Option Byte
  | [], _ => none
  | (j, v) :: m, i => if i = j then some v else Memory.read m i

/-- `MemWrite(i, 1, v)`, keeping the canonical form. -/
def Memory.write : Memory → Nat → Byte → Memory
  | [], i, v => [(i, v)]
  | (j, w) :: m, i, v =>
    if i < j then (i, v) :: (j, w) :: m
    else if i = j then (i, v) :: m
    else (j, w) :: Memory.write m i v

/-! ### The accumulator primitives (`40_sysex_accumulator.md` R90 to R93) -/

/-- The index the next pushed byte is stored at: `sx_len` while capacity remains (`20_memory.md` R46). -/
def SxAccumulator.storeIndex (cap : Nat) (a : SxAccumulator) : Option Nat :=
  if a.len < cap then some a.len else none

/-- `SX_PUSH(v)` (R91): store the byte if capacity remains, else drop it silently. -/
def SxAccumulator.push (cap : Nat) (v : Byte) (a : SxAccumulator) : SxAccumulator :=
  match a.storeIndex cap with
  | some i => { a with buf := a.buf.write i v, len := i + 1 }
  | none => a

/-- Several bytes pushed one by one in order, each tested against the capacity on its own
(`42_usb_parser.md` R153 corner case (c)). -/
def SxAccumulator.pushAll (cap : Nat) (a : SxAccumulator) : List Byte → SxAccumulator
  | [] => a
  | v :: vs => (a.push cap v).pushAll cap vs

/-- The indexes the bytes of a `pushAll` are stored at. -/
def SxAccumulator.storeIndexes (cap : Nat) (a : SxAccumulator) : List Byte → List Nat
  | [] => []
  | v :: vs => (a.storeIndex cap).toList ++ (a.push cap v).storeIndexes cap vs

/-- The accumulator of a message just opened on cable `cn`, before its first byte is pushed. -/
def SxAccumulator.opened (cn : Nibble) (a : SxAccumulator) : SxAccumulator :=
  { a with len := 0, cable := cn, collecting := true }

/-- `SX_START(cn)` (R90). -/
def SxAccumulator.start (cap : Nat) (cn : Nibble) (a : SxAccumulator) : SxAccumulator :=
  (a.opened cn).push cap 0xF0#8

/-- `SX_CLOSE()` (R93). -/
def SxAccumulator.close (a : SxAccumulator) : SxAccumulator := { a with collecting := false }

/-- `SX_END()` (R92). -/
def SxAccumulator.finish (cap : Nat) (a : SxAccumulator) : SxAccumulator := (a.push cap 0xF7#8).close

/-! ### Emitting (`00_scope.md` R6, R8) -/

/-- `emit E` in the Serial Parser. -/
def SerialParser.emit (e : Event) (p : SerialParser) : SerialParser := { p with event := e }

/-- `emit E` in the USB Packet Parser. -/
def UsbParser.emit (e : Event) (p : UsbParser) : UsbParser := { p with event := e }

/-- The outcome of an operation. -/
abbrev Result := Host.Outcome State Fault Refusal

/-- One step of the Serial Parser (`41_serial_parser.md` R100): `event` is set to `NO_MESSAGE`, then the
procedure, which is given `CAP`, runs on the instance's own state. Nothing else changes (log 12). -/
def State.stepSerial (s : State) (f : Nat → SerialParser → SerialParser) : Result :=
  .next { s with serial := f s.cfg.sysexBufferSize (s.serial.emit .noMessage) }

/-- One step of the USB Packet Parser (`42_usb_parser.md` R140). -/
def State.stepUsb (s : State) (f : Nat → UsbParser → UsbParser) : Result :=
  .next { s with usb := f s.cfg.sysexBufferSize (s.usb.emit .noMessage) }

/-! ### Reset (`70_reset_and_hazards.md` R200) -/

/-- The Serial Parser is reset: the other instance keeps its state. -/
def State.resetSerial (s : State) : State := { s with serial := .atReset s.serial.resets }

/-- The USB Packet Parser is reset. -/
def State.resetUsb (s : State) : State := { s with usb := .atReset s.usb.resets }

/-! ### The input edges -/

/-- The edge at which a symbol is valid and there is no reset. -/
def symbolEdge : Symbol → Input
  | .byte b => .serial false true b
  | .packet w => .usb false true w

/-- The state in which the given edge is the next the block sees. -/
def State.presentEdge (s : State) (e : Input) : State := { s with input := e :: s.input }

end Sys2Proof.Machine
end

