-- ==== Sys2Proof/Machine/SerialChannel.lean ====
section
/-! DEFINITION. The serial channel status operations and the data byte (`41_serial_parser.md` sections 2 and 3). -/

namespace Sys2Proof.Machine

/-- Procedure `CHANNEL_STATUS(b)` (`41_serial_parser.md` R101): an open SysEx message is ended first;
`b` becomes the running status in the same step. -/
def channelStatus (b : Byte) (cap : Nat) (p : SerialParser) : SerialParser :=
  let q := if p.sx.collecting then { p with sx := p.sx.finish cap, event := .sysexMessage } else p
  { q with runStatus := b, cnt := false }

/-- `NOTE_OFF` (`41_serial_parser.md` R102). -/
def execNoteOff (c : Nibble) (s : State) : Result := s.stepSerial (channelStatus (statusByte 0x8#4 c))

/-- `NOTE_ON` (`41_serial_parser.md` R103). -/
def execNoteOn (c : Nibble) (s : State) : Result := s.stepSerial (channelStatus (statusByte 0x9#4 c))

/-- `POLY_PRESSURE` (`41_serial_parser.md` R104). -/
def execPolyPressure (c : Nibble) (s : State) : Result := s.stepSerial (channelStatus (statusByte 0xA#4 c))

/-- `CONTROL_CHANGE` (`41_serial_parser.md` R105). -/
def execControlChange (c : Nibble) (s : State) : Result := s.stepSerial (channelStatus (statusByte 0xB#4 c))

/-- `PROGRAM_CHANGE` (`41_serial_parser.md` R106). -/
def execProgramChange (c : Nibble) (s : State) : Result := s.stepSerial (channelStatus (statusByte 0xC#4 c))

/-- `CHANNEL_PRESSURE` (`41_serial_parser.md` R107). -/
def execChannelPressure (c : Nibble) (s : State) : Result := s.stepSerial (channelStatus (statusByte 0xD#4 c))

/-- `PITCH_BEND` (`41_serial_parser.md` R108). -/
def execPitchBend (c : Nibble) (s : State) : Result := s.stepSerial (channelStatus (statusByte 0xE#4 c))

/-- The message in `cm_data1`, `cm_data2` is complete: its header and cable are written and it is
emitted (`41_serial_parser.md` R109, last lines of its two emitting arms). -/
def emitChannel (p : SerialParser) : SerialParser :=
  { p with cm := { p.cm with header := p.runStatus, cable := 0#4 }, event := .channelMessage }

/-- Procedure `DATA(b)` (`41_serial_parser.md` R109). In the arm of the one-data-byte types `cm_data2`
is not written, as the rule says; what the consumer is given leaves it out (log 5). -/
def dataByte (b : Byte) (cap : Nat) (p : SerialParser) : SerialParser :=
  if p.sx.collecting then { p with sx := p.sx.push cap b }
  else if p.runStatus = 0x00#8 then p
  else if ndata p.runStatus = some 2 then
    if p.cnt then emitChannel { p with cm := { p.cm with data2 := b }, cnt := false }
    else { p with cm := { p.cm with data1 := b }, cnt := true }
  else emitChannel { p with cm := { p.cm with data1 := b } }

/-- `DATA` (`41_serial_parser.md` R109). -/
def execData (b : Byte) (s : State) : Result := s.stepSerial (dataByte b)

end Sys2Proof.Machine
end

