-- ==== Sys2Proof/Machine/SerialCommon.lean ====
section
/-! DEFINITION. The serial system common operations (`41_serial_parser.md` section 5). -/

namespace Sys2Proof.Machine

/-- Procedure `SYSTEM_COMMON(b)` (`41_serial_parser.md` R112): an open SysEx message is ended and running
status is cleared; the byte is stored nowhere, so it is no argument. -/
def systemCommon (cap : Nat) (p : SerialParser) : SerialParser :=
  let q := if p.sx.collecting then { p with sx := p.sx.finish cap, event := .sysexMessage } else p
  { q with runStatus := 0x00#8, cnt := false }

/-- `SC_F1` (`41_serial_parser.md` R113). -/
def execScF1 (s : State) : Result := s.stepSerial systemCommon

/-- `SC_F2` (`41_serial_parser.md` R114). -/
def execScF2 (s : State) : Result := s.stepSerial systemCommon

/-- `SC_F3` (`41_serial_parser.md` R115). -/
def execScF3 (s : State) : Result := s.stepSerial systemCommon

/-- `SC_F4` (`41_serial_parser.md` R116). -/
def execScF4 (s : State) : Result := s.stepSerial systemCommon

/-- `SC_F5` (`41_serial_parser.md` R117). -/
def execScF5 (s : State) : Result := s.stepSerial systemCommon

/-- `SC_F6` (`41_serial_parser.md` R118). -/
def execScF6 (s : State) : Result := s.stepSerial systemCommon

end Sys2Proof.Machine
end

