-- ==== Sys2Proof/Machine/SerialRealTime.lean ====
section
/-! DEFINITION. The serial real-time operations (`41_serial_parser.md` section 6). -/

namespace Sys2Proof.Machine

/-- Procedure `REAL_TIME(b)` (`41_serial_parser.md` R119): only `rt_message`, `rt_cable` and `event` are
written, so the message around it goes on undisturbed. -/
def realTime (b : Byte) (_cap : Nat) (p : SerialParser) : SerialParser :=
  { p with rt := { message := b, cable := 0#4 }, event := .realtimeMessage }

/-- `RT_F8` (`41_serial_parser.md` R120). -/
def execRtF8 (s : State) : Result := s.stepSerial (realTime 0xF8#8)

/-- `RT_F9` (`41_serial_parser.md` R121). -/
def execRtF9 (s : State) : Result := s.stepSerial (realTime 0xF9#8)

/-- `RT_FA` (`41_serial_parser.md` R122). -/
def execRtFA (s : State) : Result := s.stepSerial (realTime 0xFA#8)

/-- `RT_FB` (`41_serial_parser.md` R123). -/
def execRtFB (s : State) : Result := s.stepSerial (realTime 0xFB#8)

/-- `RT_FC` (`41_serial_parser.md` R124). -/
def execRtFC (s : State) : Result := s.stepSerial (realTime 0xFC#8)

/-- `RT_FD` (`41_serial_parser.md` R125). -/
def execRtFD (s : State) : Result := s.stepSerial (realTime 0xFD#8)

/-- `RT_FE` (`41_serial_parser.md` R126). -/
def execRtFE (s : State) : Result := s.stepSerial (realTime 0xFE#8)

/-- `RT_FF` (`41_serial_parser.md` R127). -/
def execRtFF (s : State) : Result := s.stepSerial (realTime 0xFF#8)

end Sys2Proof.Machine
end

