-- ==== Sys2Proof/Machine/SerialSysex.lean ====
section
/-! DEFINITION. The serial system exclusive start and end (`41_serial_parser.md` section 4). -/

namespace Sys2Proof.Machine

/-- Procedure `SYSEX_START` (`41_serial_parser.md` R110): from any state, a message in progress is
dropped and a new one starts on cable 0. -/
def sysexStart (cap : Nat) (p : SerialParser) : SerialParser :=
  { p with sx := p.sx.start cap 0#4, runStatus := 0x00#8, cnt := false }

/-- `SYSEX_START` (`41_serial_parser.md` R110). -/
def execSysexStart (s : State) : Result := s.stepSerial sysexStart

/-- Procedure `SYSEX_END` (`41_serial_parser.md` R111): a stray terminator writes nothing. -/
def sysexEnd (cap : Nat) (p : SerialParser) : SerialParser :=
  if p.sx.collecting then { p with sx := p.sx.finish cap, event := .sysexMessage } else p

/-- `SYSEX_END` (`41_serial_parser.md` R111). -/
def execSysexEnd (s : State) : Result := s.stepSerial sysexEnd

end Sys2Proof.Machine
end

