-- ==== Sys2Proof/Machine/UsbChannel.lean ====
section
/-! DEFINITION. The USB channel message packets (`42_usb_parser.md` section 2). -/

namespace Sys2Proof.Machine

/-- Procedure `CHANNEL_PACKET` (`42_usb_parser.md` R141): the payload is copied unchecked. `cm_data2`
receives `p3` for every code index, as the rule says; for `0xC` and `0xD` what the consumer is given
leaves it out (log 5). -/
def channelPacket (cn : Nibble) (p1 p2 p3 : Byte) (_cap : Nat) (p : UsbParser) : UsbParser :=
  { p with cm := { header := p1, data1 := p2, data2 := p3, cable := cn }, event := .channelMessage }

/-- `CIN_8_NOTE_OFF` (`42_usb_parser.md` R142). -/
def execCin8NoteOff (cn : Nibble) (p1 p2 p3 : Byte) (s : State) : Result := s.stepUsb (channelPacket cn p1 p2 p3)

/-- `CIN_9_NOTE_ON` (`42_usb_parser.md` R143). -/
def execCin9NoteOn (cn : Nibble) (p1 p2 p3 : Byte) (s : State) : Result := s.stepUsb (channelPacket cn p1 p2 p3)

/-- `CIN_A_POLY_PRESSURE` (`42_usb_parser.md` R144). -/
def execCinAPolyPressure (cn : Nibble) (p1 p2 p3 : Byte) (s : State) : Result := s.stepUsb (channelPacket cn p1 p2 p3)

/-- `CIN_B_CONTROL_CHANGE` (`42_usb_parser.md` R145). -/
def execCinBControlChange (cn : Nibble) (p1 p2 p3 : Byte) (s : State) : Result := s.stepUsb (channelPacket cn p1 p2 p3)

/-- `CIN_C_PROGRAM_CHANGE` (`42_usb_parser.md` R146). -/
def execCinCProgramChange (cn : Nibble) (p1 p2 p3 : Byte) (s : State) : Result := s.stepUsb (channelPacket cn p1 p2 p3)

/-- `CIN_D_CHANNEL_PRESSURE` (`42_usb_parser.md` R147). -/
def execCinDChannelPressure (cn : Nibble) (p1 p2 p3 : Byte) (s : State) : Result := s.stepUsb (channelPacket cn p1 p2 p3)

/-- `CIN_E_PITCH_BEND` (`42_usb_parser.md` R148). -/
def execCinEPitchBend (cn : Nibble) (p1 p2 p3 : Byte) (s : State) : Result := s.stepUsb (channelPacket cn p1 p2 p3)

end Sys2Proof.Machine
end

