-- ==== Sys2Proof/Machine/UsbReserved.lean ====
section
/-! DEFINITION. The reserved and unrecognised code indexes (`42_usb_parser.md` section 3). -/

namespace Sys2Proof.Machine

/-- A packet with a reserved or unrecognised code index: nothing after `event <- NO_MESSAGE`
(`42_usb_parser.md` R149). -/
def ignoredPacket (_cap : Nat) (p : UsbParser) : UsbParser := p

/-- `CIN_0_MISC` (`42_usb_parser.md` R149): the payload is ignored whatever it holds. -/
def execCin0Misc (_cn : Nibble) (_p1 _p2 _p3 : Byte) (s : State) : Result := s.stepUsb ignoredPacket

/-- `CIN_1_CABLE_EVENT` (`42_usb_parser.md` R150): the payload is ignored whatever it holds. -/
def execCin1CableEvent (_cn : Nibble) (_p1 _p2 _p3 : Byte) (s : State) : Result := s.stepUsb ignoredPacket

/-- `CIN_2_SYSCOM2` (`42_usb_parser.md` R151): the payload is ignored whatever it holds. -/
def execCin2Syscom2 (_cn : Nibble) (_p1 _p2 _p3 : Byte) (s : State) : Result := s.stepUsb ignoredPacket

/-- `CIN_3_SYSCOM3` (`42_usb_parser.md` R152): the payload is ignored whatever it holds. -/
def execCin3Syscom3 (_cn : Nibble) (_p1 _p2 _p3 : Byte) (s : State) : Result := s.stepUsb ignoredPacket

end Sys2Proof.Machine
end

