-- ==== Sys2Proof/Machine/UsbSingle.lean ====
section
/-! DEFINITION. The USB single-byte packet (`42_usb_parser.md` section 5). -/

namespace Sys2Proof.Machine

/-- Procedure of `CIN_F_SINGLE_BYTE` (`42_usb_parser.md` R157): `p1` is delivered unchecked. -/
def singleByte (cn : Nibble) (p1 : Byte) (_cap : Nat) (p : UsbParser) : UsbParser :=
  { p with rt := { message := p1, cable := cn }, event := .realtimeMessage }

/-- `CIN_F_SINGLE_BYTE` (`42_usb_parser.md` R157): `p2`, `p3` are padding. -/
def execCinFSingleByte (cn : Nibble) (p1 _p2 _p3 : Byte) (s : State) : Result := s.stepUsb (singleByte cn p1)

end Sys2Proof.Machine
end

