-- ==== Sys2Proof/Machine/UsbSysex.lean ====
section
/-! DEFINITION. The USB system exclusive packets (`42_usb_parser.md` section 4). -/

namespace Sys2Proof.Machine

/-- Procedure of `CIN_4_SYSEX_START_CONT` (`42_usb_parser.md` R153): start, continue, or an unstarted
continuation, which writes nothing. -/
def sysexStartCont (cn : Nibble) (p1 p2 p3 : Byte) (cap : Nat) (p : UsbParser) : UsbParser :=
  if p1 = 0xF0#8 then { p with sx := (p.sx.start cap cn).pushAll cap [p2, p3] }
  else if openOn p.sx cn then { p with sx := p.sx.pushAll cap [p1, p2, p3] }
  else p

/-- `CIN_4_SYSEX_START_CONT` (`42_usb_parser.md` R153). -/
def execCin4SysexStartCont (cn : Nibble) (p1 p2 p3 : Byte) (s : State) : Result :=
  s.stepUsb (sysexStartCont cn p1 p2 p3)

/-- Procedure of `CIN_5_SYSEX_END1` (`42_usb_parser.md` R154): `p1 = 0xF7` ends the open message of the
cable, any other `p1` is a single-byte message. -/
def sysexEndOne (cn : Nibble) (p1 : Byte) (cap : Nat) (p : UsbParser) : UsbParser :=
  if p1 = 0xF7#8 then
    if openOn p.sx cn then { p with sx := p.sx.finish cap, event := .sysexMessage } else p
  else { p with rt := { message := p1, cable := cn }, event := .realtimeMessage }

/-- `CIN_5_SYSEX_END1` (`42_usb_parser.md` R154): `p2`, `p3` are padding. -/
def execCin5SysexEnd1 (cn : Nibble) (p1 _p2 _p3 : Byte) (s : State) : Result := s.stepUsb (sysexEndOne cn p1)

/-- The procedure shared by `CIN_6_SYSEX_END2` and `CIN_7_SYSEX_END3`: a packet that ends a message with
the bytes `p1`, `rest`. With `p1 = 0xF0` it is a whole message of its own; otherwise it ends the open
message of the cable, or writes nothing. No terminator is synthesised and the last byte is not checked
(`42_usb_parser.md` R155, R156). -/
def sysexEndWith (cn : Nibble) (p1 : Byte) (rest : List Byte) (cap : Nat) (p : UsbParser) : UsbParser :=
  if p1 = 0xF0#8 then
    { p with sx := ((p.sx.start cap cn).pushAll cap rest).close, event := .sysexMessage }
  else if openOn p.sx cn then
    { p with sx := (p.sx.pushAll cap (p1 :: rest)).close, event := .sysexMessage }
  else p

/-- `CIN_6_SYSEX_END2` (`42_usb_parser.md` R155): `p3` is padding. -/
def execCin6SysexEnd2 (cn : Nibble) (p1 p2 _p3 : Byte) (s : State) : Result :=
  s.stepUsb (sysexEndWith cn p1 [p2])

/-- `CIN_7_SYSEX_END3` (`42_usb_parser.md` R156). -/
def execCin7SysexEnd3 (cn : Nibble) (p1 p2 p3 : Byte) (s : State) : Result :=
  s.stepUsb (sysexEndWith cn p1 [p2, p3])

end Sys2Proof.Machine
end

