-- ==== Sys2Proof/Machine/Dispatch.lean ====
section
/-! DEFINITION. The meaning of every operation, one arm per row of `opcode_table.json`. -/

namespace Sys2Proof.Machine

def exec (i : Instr) (s : State) : Host.Outcome State Fault Refusal :=
  match i with
  | .data b => Sys2Proof.Machine.execData b s
  | .noteOff c => Sys2Proof.Machine.execNoteOff c s
  | .noteOn c => Sys2Proof.Machine.execNoteOn c s
  | .polyPressure c => Sys2Proof.Machine.execPolyPressure c s
  | .controlChange c => Sys2Proof.Machine.execControlChange c s
  | .programChange c => Sys2Proof.Machine.execProgramChange c s
  | .channelPressure c => Sys2Proof.Machine.execChannelPressure c s
  | .pitchBend c => Sys2Proof.Machine.execPitchBend c s
  | .sysexStart => Sys2Proof.Machine.execSysexStart s
  | .scF1 => Sys2Proof.Machine.execScF1 s
  | .scF2 => Sys2Proof.Machine.execScF2 s
  | .scF3 => Sys2Proof.Machine.execScF3 s
  | .scF4 => Sys2Proof.Machine.execScF4 s
  | .scF5 => Sys2Proof.Machine.execScF5 s
  | .scF6 => Sys2Proof.Machine.execScF6 s
  | .sysexEnd => Sys2Proof.Machine.execSysexEnd s
  | .rtF8 => Sys2Proof.Machine.execRtF8 s
  | .rtF9 => Sys2Proof.Machine.execRtF9 s
  | .rtFA => Sys2Proof.Machine.execRtFA s
  | .rtFB => Sys2Proof.Machine.execRtFB s
  | .rtFC => Sys2Proof.Machine.execRtFC s
  | .rtFD => Sys2Proof.Machine.execRtFD s
  | .rtFE => Sys2Proof.Machine.execRtFE s
  | .rtFF => Sys2Proof.Machine.execRtFF s
  | .cin0Misc cn p1 p2 p3 => Sys2Proof.Machine.execCin0Misc cn p1 p2 p3 s
  | .cin1CableEvent cn p1 p2 p3 => Sys2Proof.Machine.execCin1CableEvent cn p1 p2 p3 s
  | .cin2Syscom2 cn p1 p2 p3 => Sys2Proof.Machine.execCin2Syscom2 cn p1 p2 p3 s
  | .cin3Syscom3 cn p1 p2 p3 => Sys2Proof.Machine.execCin3Syscom3 cn p1 p2 p3 s
  | .cin4SysexStartCont cn p1 p2 p3 => Sys2Proof.Machine.execCin4SysexStartCont cn p1 p2 p3 s
  | .cin5SysexEnd1 cn p1 p2 p3 => Sys2Proof.Machine.execCin5SysexEnd1 cn p1 p2 p3 s
  | .cin6SysexEnd2 cn p1 p2 p3 => Sys2Proof.Machine.execCin6SysexEnd2 cn p1 p2 p3 s
  | .cin7SysexEnd3 cn p1 p2 p3 => Sys2Proof.Machine.execCin7SysexEnd3 cn p1 p2 p3 s
  | .cin8NoteOff cn p1 p2 p3 => Sys2Proof.Machine.execCin8NoteOff cn p1 p2 p3 s
  | .cin9NoteOn cn p1 p2 p3 => Sys2Proof.Machine.execCin9NoteOn cn p1 p2 p3 s
  | .cinAPolyPressure cn p1 p2 p3 => Sys2Proof.Machine.execCinAPolyPressure cn p1 p2 p3 s
  | .cinBControlChange cn p1 p2 p3 => Sys2Proof.Machine.execCinBControlChange cn p1 p2 p3 s
  | .cinCProgramChange cn p1 p2 p3 => Sys2Proof.Machine.execCinCProgramChange cn p1 p2 p3 s
  | .cinDChannelPressure cn p1 p2 p3 => Sys2Proof.Machine.execCinDChannelPressure cn p1 p2 p3 s
  | .cinEPitchBend cn p1 p2 p3 => Sys2Proof.Machine.execCinEPitchBend cn p1 p2 p3 s
  | .cinFSingleByte cn p1 p2 p3 => Sys2Proof.Machine.execCinFSingleByte cn p1 p2 p3 s

end Sys2Proof.Machine
end

