-- ==== Sys2Proof/Machine/Edge.lean ====
section
/-! DEFINITION. What one input edge does, and how a word of the opcode table is presented. The block
fetches nothing (`20_memory.md` R53): its next symbol is the one the driver presents. -/

namespace Sys2Proof.Machine

/-- One clock edge of one instance (`10_state.md` R34): reset wins over a symbol
(`70_reset_and_hazards.md` R201); a valid symbol is decoded and its operation runs; otherwise nothing
changes. -/
def takeEdge (e : Input) (s : State) : Result :=
  match e with
  | .serial rst valid b =>
    if rst then .next s.resetSerial
    else if valid then exec (decodeSerial b) s
    else .next s
  | .usb rst valid w =>
    if rst then .next s.resetUsb
    else if valid then exec (decodePacket w) s
    else .next s

/-- The next edge is taken out of the input and acts; with no input offered the state is held
(`60_exceptions.md` R181, log 7). -/
def takeNext (s : State) : Result :=
  match s.input with
  | [] => .next s
  | e :: rest => takeEdge e { s with input := rest }

/-- The driver presents the symbol meant by the number `w` of `nbits` bits as the very next edge. -/
def presentWord (s : State) (nbits w : Nat) : State :=
  match tableSymbol nbits w with
  | some y => s.presentEdge (symbolEdge y)
  | none => s

end Sys2Proof.Machine
end

