-- ==== Sys2Proof/Machine/Step.lean ====
section
/-! DEFINITION. One step of the machine, and presenting an operation of the opcode table to it. -/

namespace Sys2Proof.Machine

/-- One step: the next input edge acts on its instance (`00_scope.md` R7). -/
def step (s : State) : Host.Outcome State Fault Refusal := takeNext s

/-- `s` with the symbol numbered `w` (of `nbits` bits) as the next input edge; nothing else changes. -/
def State.withFetchWord (s : State) (nbits w : Nat) : State := presentWord s nbits w

end Sys2Proof.Machine
end

