-- ==== Sys2Proof/Machine/Consumer.lean ====
section
/-! DEFINITION. What the consumer can read between steps: the output registers, the buffer read port,
and the payload the event names (`10_state.md` R30, R35, `20_memory.md` R47, `30_encoding.md` R71,
`40_sysex_accumulator.md` R98). Reads change nothing, so they are functions of the state. -/

namespace Sys2Proof.Machine

/-- The buffer read port `sx_rdata = sx_buf[sx_raddr]` of an instance reset `n` times (R47): the stored
byte below `sx_len`, a free value elsewhere (log 4, safe). -/
def SxAccumulator.rdata (g : Agent) (n : Nat) (a : SxAccumulator) (raddr : Nat) : Byte :=
  if raddr < a.len then (a.buf.read raddr).getD (Config.staleByte g n a.buf raddr)
  else Config.staleByte g n a.buf raddr

/-- The bytes of the SysEx view, `sx_buf[0 .. sx_len-1]`, read through the port (R71, R98). -/
def SxAccumulator.view (g : Agent) (n : Nat) (a : SxAccumulator) : List Byte :=
  (List.range a.len).map (a.rdata g n)

/-- What a step delivers to the consumer: the event with the payload it names and nothing else
(`10_state.md` R30, `93_implementation_defined.md` U5). -/
inductive Delivery where
  | nothing
  /-- `data2` is left out where the type has one data byte: it is undefined there (R11, U2). -/
  | channel (header data1 : Byte) (data2 : Option Byte) (cable : Nibble)
  | sysex (cable : Nibble) (bytes : List Byte)
  | realTime (message : Byte) (cable : Nibble)
  deriving DecidableEq, Repr

/-- The channel message as delivered: `data2` only if the type has two data bytes (R30). A USB header
whose nibble is no message type is delivered with its `data2` (`42_usb_parser.md` R141 (a), log 5). -/
def channelDelivery (m : ChannelMessage) : Delivery :=
  .channel m.header m.data1 (if ndata m.header = some 1 then none else some m.data2) m.cable

/-- The payload selected by the event. -/
def deliveryOf (g : Agent) (n : Nat) (e : Event) (cm : ChannelMessage) (rt : RealTimeMessage)
    (a : SxAccumulator) : Delivery :=
  match e with
  | .noMessage => .nothing
  | .channelMessage => channelDelivery cm
  | .sysexMessage => .sysex a.cable (a.view g n)
  | .realtimeMessage => .realTime rt.message rt.cable

/-- What the Serial Parser's consumer is given after a step. -/
def SerialParser.delivered (p : SerialParser) : Delivery :=
  deliveryOf .serial p.resets p.event p.cm p.rt p.sx

/-- What the USB Packet Parser's consumer is given after a step. -/
def UsbParser.delivered (p : UsbParser) : Delivery :=
  deliveryOf .usb p.resets p.event p.cm p.rt p.sx

/-- The output signals of an instance (`10_state.md` R35), without the read port. They hold what the last
step left; which of them mean anything is `delivered`. -/
structure Outputs where
  event     : BitVec 2
  cmHeader  : Byte
  cmData1   : Byte
  cmData2   : Byte
  cmCable   : Nibble
  rtMessage : Byte
  rtCable   : Nibble
  sxLen     : Nat
  sxCable   : Nibble
  deriving DecidableEq, Repr

/-- The output signals given the registers behind them. -/
def outputsOf (e : Event) (cm : ChannelMessage) (rt : RealTimeMessage) (a : SxAccumulator) : Outputs :=
  { event := eventCode e
    cmHeader := cm.header
    cmData1 := cm.data1
    cmData2 := cm.data2
    cmCable := cm.cable
    rtMessage := rt.message
    rtCable := rt.cable
    sxLen := a.len
    sxCable := a.cable }

/-- `s_event`, `s_cm_header`, …: `run_status`, `cnt` and `sx_collecting` are not outputs (R35). -/
def SerialParser.outputs (p : SerialParser) : Outputs := outputsOf p.event p.cm p.rt p.sx

/-- `u_event`, `u_cm_header`, … -/
def UsbParser.outputs (p : UsbParser) : Outputs := outputsOf p.event p.cm p.rt p.sx

end Sys2Proof.Machine
end

