-- ==== Sys2Proof/Safety.lean ====
section
/-! DEFINITION. What a consistent state is, what runs deliver, and the groups of operations of one
shape, in the terms the statements use. -/

namespace Sys2Proof.Machine

/-! ### Invariants -/

/-- The accumulator invariants (`10_state.md` R25 items 1 and 2, `95_test_vectors.md` Q9) with the
canonical form of the buffer. -/
structure SxAccumulator.Inv (cap : Nat) (a : SxAccumulator) : Prop where
  /-- The buffer is in its canonical form. -/
  wf : a.buf.wf
  /-- No byte was ever written at or above the capacity. -/
  below : ∀ c ∈ a.buf, c.1 < cap
  /-- R25 item 1. -/
  lenLe : a.len ≤ cap
  /-- Every byte below the length has been written. -/
  stored : ∀ i, i < a.len → (a.buf.read i).isSome = true
  /-- R25 item 2. -/
  opened : a.collecting = true → 1 ≤ a.len ∧ a.buf.read 0 = some 0xF0#8

/-- What a step that emits `SYSEX_MESSAGE` leaves (R25 item 3). -/
def SxAccumulator.Delivered (a : SxAccumulator) : Prop :=
  a.collecting = false ∧ 1 ≤ a.len ∧ a.buf.read 0 = some 0xF0#8

/-- The invariants of the Serial Parser (`10_state.md` R11, R12, R25, R26). -/
structure SerialParser.Inv (cap : Nat) (p : SerialParser) : Prop where
  sx : p.sx.Inv cap
  /-- R25 item 3. -/
  sysex : p.event = .sysexMessage → p.sx.Delivered
  /-- R25 item 4; while the message is open every byte after the first is a data byte. -/
  dataBytes : ∀ i v, 1 ≤ i → i < p.sx.len → p.sx.buf.read i = some v →
    v < 0x80#8 ∨ (p.sx.collecting = false ∧ i + 1 = p.sx.len ∧ v = 0xF7#8)
  /-- R23: the tag is 0 in the Serial Parser. -/
  cable : p.sx.cable = 0#4
  /-- R26 item 1. -/
  running : p.runStatus = 0x00#8 ∨ (0x80#8 ≤ p.runStatus ∧ p.runStatus ≤ 0xEF#8)
  /-- R26 item 2. -/
  exclusive : p.sx.collecting = true → p.runStatus = 0x00#8
  /-- R26 item 3, and the byte held is a data byte. -/
  held : p.cnt = true → ndata p.runStatus = some 2 ∧ p.sx.collecting = false ∧ p.cm.data1 < 0x80#8
  /-- R11 and R26 item 4 for an emitted channel message. -/
  channel : p.event = .channelMessage → (ndata p.cm.header).isSome = true ∧ p.cm.data1 < 0x80#8 ∧
    (ndata p.cm.header = some 2 → p.cm.data2 < 0x80#8) ∧ p.cm.cable = 0#4
  /-- R12 and R26 item 4 for an emitted real-time message. -/
  realTime : p.event = .realtimeMessage → 0xF8#8 ≤ p.rt.message ∧ p.rt.cable = 0#4

/-- The invariants of the USB Packet Parser (R25; its payloads are unchecked, so R11, R12 and R25 item 4
do not hold of it). -/
structure UsbParser.Inv (cap : Nat) (p : UsbParser) : Prop where
  sx : p.sx.Inv cap
  sysex : p.event = .sysexMessage → p.sx.Delivered

/-- The invariant of the whole state. -/
structure State.Inv (s : State) : Prop where
  serial : s.serial.Inv s.cfg.sysexBufferSize
  usb : s.usb.Inv s.cfg.sysexBufferSize

/-! ### Runs -/

/-- The input edges that present a byte stream to the Serial Parser. -/
def serialEdges (bs : List Byte) : List Input := bs.map (fun b => .serial false true b)

/-- The input edges that present a packet stream to the USB Packet Parser. -/
def usbEdges (ws : List PacketWord) : List Input := ws.map (fun w => .usb false true w)

/-- The edge is one of the Serial Parser's. -/
def Input.isSerial : Input → Bool
  | .serial _ _ _ => true
  | .usb _ _ _ => false

/-- The serial stream `bs` fed one byte a step: what each step delivers, in order, and the last state;
`none` if an operation does not complete. -/
def serialTrace (s : State) : List Byte → Option (List Delivery × State)
  | [] => some ([], s)
  | b :: bs =>
    match exec (decodeSerial b) s with
    | .next t => (serialTrace t bs).map (fun r => (t.serial.delivered :: r.1, r.2))
    | _ => none

/-- The packet stream `ws` fed one packet a step to the USB Packet Parser, in the same way. -/
def usbTrace (s : State) : List PacketWord → Option (List Delivery × State)
  | [] => some ([], s)
  | w :: ws =>
    match exec (decodePacket w) s with
    | .next t => (usbTrace t ws).map (fun r => (t.usb.delivered :: r.1, r.2))
    | _ => none

/-- The delivery is a channel or a SysEx message: neither nothing nor a real-time message. -/
def Delivery.isMessage : Delivery → Bool
  | .channel _ _ _ _ => true
  | .sysex _ _ => true
  | _ => false

/-- The delivery is a SysEx message. -/
def Delivery.isSysex : Delivery → Bool
  | .sysex _ _ => true
  | _ => false

/-- The packets a message is cut into on cable `cn`: `CIN 0x4` packets of three bytes while more than
three bytes remain, then one end packet with the last one, two or three (`42_usb_parser.md` R159).
Padding is zero, which no operation looks at (R162). -/
def packetise (cn : Nibble) : List Byte → List PacketWord
  | [] => []
  | [x] => [packetWord (statusByte cn 0x5#4) x 0#8 0#8]
  | [x, y] => [packetWord (statusByte cn 0x6#4) x y 0#8]
  | [x, y, z] => [packetWord (statusByte cn 0x7#4) x y z]
  | x :: y :: z :: w :: rest => packetWord (statusByte cn 0x4#4) x y z :: packetise cn (w :: rest)

/-- The SysEx message `F0 d1 .. dn F7`. -/
def sysexBytes (ds : List Byte) : List Byte := 0xF0#8 :: ds ++ [0xF7#8]

/-! ### Groups of operations of one shape -/

/-- The seven channel status operations of channel `c`, each with its status byte (`41_serial_parser.md`
R102 to R108). -/
def channelStatusOps (c : Nibble) : List (Instr × Byte) :=
  [(.noteOff c, statusByte 0x8#4 c), (.noteOn c, statusByte 0x9#4 c), (.polyPressure c, statusByte 0xA#4 c),
   (.controlChange c, statusByte 0xB#4 c), (.programChange c, statusByte 0xC#4 c),
   (.channelPressure c, statusByte 0xD#4 c), (.pitchBend c, statusByte 0xE#4 c)]

/-- The six system common operations (R113 to R118). -/
def systemCommonOps : List Instr := [.scF1, .scF2, .scF3, .scF4, .scF5, .scF6]

/-- The eight real-time operations, each with its byte (R120 to R127). -/
def realTimeOps : List (Instr × Byte) :=
  [(.rtF8, 0xF8#8), (.rtF9, 0xF9#8), (.rtFA, 0xFA#8), (.rtFB, 0xFB#8),
   (.rtFC, 0xFC#8), (.rtFD, 0xFD#8), (.rtFE, 0xFE#8), (.rtFF, 0xFF#8)]

/-- The seven channel packets (`42_usb_parser.md` R142 to R148). -/
def channelPacketOps (cn : Nibble) (p1 p2 p3 : Byte) : List Instr :=
  [.cin8NoteOff cn p1 p2 p3, .cin9NoteOn cn p1 p2 p3, .cinAPolyPressure cn p1 p2 p3,
   .cinBControlChange cn p1 p2 p3, .cinCProgramChange cn p1 p2 p3, .cinDChannelPressure cn p1 p2 p3,
   .cinEPitchBend cn p1 p2 p3]

/-- The four packets with a reserved or unrecognised code index (R149 to R152). -/
def reservedOps (cn : Nibble) (p1 p2 p3 : Byte) : List Instr :=
  [.cin0Misc cn p1 p2 p3, .cin1CableEvent cn p1 p2 p3, .cin2Syscom2 cn p1 p2 p3, .cin3Syscom3 cn p1 p2 p3]

/-- Every byte of both SysEx buffers reads the same in the two states. -/
def SameMemory (s t : State) : Prop :=
  (∀ i, t.serial.sx.buf.read i = s.serial.sx.buf.read i) ∧ (∀ i, t.usb.sx.buf.read i = s.usb.sx.buf.read i)

end Sys2Proof.Machine
end

