-- ==== Sys2Proof/Certificates/Slice0/Obligations.lean ====
section
/-! DEFINITION. The statements for the provers, from the numbered rules of `spec/`. A statement over
every state holds whatever the capacity, the free values and the input to come are. -/

open Sys2Proof Sys2Proof.Machine

/-! ### Encoding -/

/-- `30_encoding.md` R61, R64: decoding the symbol the encoder gives a well-formed operation gives the
operation back, with every operand. -/
def Obligations.DecodeInvertsEncode : Prop :=
  ∀ i : Instr, i.wellFormed = true → decode i.agent (encode i) = .ok i

/-- The other direction: every symbol is the encoding of the operation it decodes to, which is well
formed and of the right agent, so no two symbols share an operation with its operands. -/
def Obligations.EncodeInvertsDecode : Prop :=
  (∀ b : Byte, encode (decodeSerial b) = [b] ∧ (decodeSerial b).wellFormed = true ∧
    (decodeSerial b).agent = .serial) ∧
  (∀ p0 p1 p2 p3 : Byte, encode (decodePacketBytes p0 p1 p2 p3) = [p0, p1, p2, p3] ∧
    (decodePacketBytes p0 p1 p2 p3).wellFormed = true ∧ (decodePacketBytes p0 p1 p2 p3).agent = .usb)

/-- `30_encoding.md` R62: the 24 serial rows of the opcode table partition the 256 byte values, and the
decoder answers the one row a byte belongs to. -/
def Obligations.EverySerialByteHasOneRow : Prop :=
  (opcodeTable.filter (fun r => r.agent == .serial)).length = 24 ∧
  ∀ b : Byte, opcodeTable.filter (fun r => r.agent == .serial && r.covers (b.setWidth 32)) = [(decodeSerial b).row]

/-- `30_encoding.md` R65, first sentence: every 32-bit packet value belongs to exactly one of the sixteen
packet rows, the one the decoder answers. -/
def Obligations.EveryPacketHasOneRow : Prop :=
  (opcodeTable.filter (fun r => r.agent == .usb)).length = 16 ∧
  ∀ w : PacketWord, opcodeTable.filter (fun r => r.agent == .usb && r.covers w) = [(decodePacket w).row]

/-- Symbols written out from the encodings of `30_encoding.md` R61, R63 and R64 decode to their
operations, one of each family; `[08 82 20 7F]` is the packet of `95_test_vectors.md` E7. -/
def Obligations.WrittenSymbolsDecode : Prop :=
  decodeSerial 0b00100000#8 = .data 0x20#8 ∧
  decodeSerial 0b10000010#8 = .noteOff 2#4 ∧
  decodeSerial 0b11000101#8 = .programChange 5#4 ∧
  decodeSerial 0b11110000#8 = .sysexStart ∧
  decodeSerial 0b11110101#8 = .scF5 ∧
  decodeSerial 0b11110111#8 = .sysexEnd ∧
  decodeSerial 0b11111001#8 = .rtF9 ∧
  decodePacket 0b00000011000000100000000100010001#32 = .cin1CableEvent 1#4 0x01#8 0x02#8 0x03#8 ∧
  decodePacket 0b00000010000000011111000000100100#32 = .cin4SysexStartCont 2#4 0xF0#8 0x01#8 0x02#8 ∧
  decodePacket 0b01111111001000001000001000001000#32 = .cin8NoteOff 0#4 0x82#8 0x20#8 0x7F#8 ∧
  decodePacket 0b00000000000000001111101001011111#32 = .cinFSingleByte 5#4 0xFA#8 0x00#8 0x00#8

/-- `20_memory.md` R43 and `30_encoding.md` R63: the four bytes of a packet on `u_pkt`, and `CN`, `CIN`
in byte 0. -/
def Obligations.PacketFieldsAreItsBytes : Prop :=
  (∀ p0 p1 p2 p3 : Byte, (List.range 4).map (packetByte (packetWord p0 p1 p2 p3)) = [p0, p1, p2, p3]) ∧
  (∀ w : PacketWord, packetWord (packetByte w 0) (packetByte w 1) (packetByte w 2) (packetByte w 3) = w) ∧
  (∀ cn cin : Nibble, hiNibble (statusByte cn cin) = cn ∧ loNibble (statusByte cn cin) = cin)

/-- `30_encoding.md` R66: the codes of the four events; all four codes are used. -/
def Obligations.EventCodesAreTheTable : Prop :=
  eventCode .noMessage = 0#2 ∧ eventCode .channelMessage = 1#2 ∧ eventCode .sysexMessage = 2#2 ∧
  eventCode .realtimeMessage = 3#2 ∧
  (∀ e, eventOfCode (eventCode e) = e) ∧ (∀ c, eventCode (eventOfCode c) = c)

/-- `30_encoding.md` R67: type and channel are the nibbles of the header, and the number of data bytes is
a function of the type nibble with the table's values. -/
def Obligations.HeaderFieldsAndDataByteCount : Prop :=
  ∀ t c : Nibble,
    headerType (statusByte t c) = t ∧ headerChannel (statusByte t c) = c ∧
    (t ∈ [0x8#4, 0x9#4, 0xA#4, 0xB#4, 0xE#4] → ndata (statusByte t c) = some 2) ∧
    (t ∈ [0xC#4, 0xD#4] → ndata (statusByte t c) = some 1)

/-- `00_scope.md` R4: `SYSEX_BUFFER_SIZE >= 1`; `LENW` bits hold every length up to it and one bit less
does not; `IDXW` bits hold every index, and `IDXW` is the least such width that is at least one. -/
def Obligations.WidthsHoldTheirRanges : Prop :=
  ∀ c : Config, 1 ≤ c.sysexBufferSize ∧
    c.sysexBufferSize < 2 ^ c.lenWidth ∧ 2 ^ (c.lenWidth - 1) ≤ c.sysexBufferSize ∧
    1 ≤ c.indexWidth ∧ c.sysexBufferSize ≤ 2 ^ c.indexWidth ∧
    (c.sysexBufferSize = 1 → c.indexWidth = 1) ∧
    (2 ≤ c.sysexBufferSize → 2 ^ (c.indexWidth - 1) < c.sysexBufferSize)

/-! ### The step -/

/-- When the symbol at the head of the input decodes to an operation, the step is that operation, run on
the state without the symbol. -/
def Obligations.StepRunsTheDecodedSymbol : Prop :=
  (∀ (s : State) (b : Byte) (rest : List Input) (i : Instr), s.input = .serial false true b :: rest →
    decode .serial [b] = .ok i → step s = exec i { s with input := rest }) ∧
  (∀ (s : State) (p0 p1 p2 p3 : Byte) (rest : List Input) (i : Instr),
    s.input = .usb false true (packetWord p0 p1 p2 p3) :: rest →
    decode .usb [p0, p1, p2, p3] = .ok i → step s = exec i { s with input := rest })

/-- A word of the opcode table that the decoder reads is run by the very next step, from any state. How a
bare number is given a port is the model's choice (log 11). -/
def Obligations.PresentedTableWordRunsNext : Prop :=
  ∀ (s : State) (nbits w : Nat) (i : Instr), decodeTableWord nbits w = some i →
    step (s.withFetchWord nbits w) = exec i s

/-- `60_exceptions.md` R170: every step completes, whatever the state and the input; it takes exactly one
edge out of the input (`20_memory.md` R53) and leaves the parameter alone (`00_scope.md` R4). That the
state is held when no edge is left is the model's choice (log 7). -/
def Obligations.EveryStepCompletes : Prop :=
  ∀ s : State, ∃ t, step s = .next t ∧ t.input = s.input.tail ∧ t.cfg = s.cfg

/-- `10_state.md` R34: with `rst = 0` and `valid = 0` nothing changes (the edge is over); the model also
holds its state when no edge is left to come (log 7). -/
def Obligations.NoSymbolChangesNothing : Prop :=
  ∀ (s : State) (rest : List Input),
    (∀ b, s.input = .serial false false b :: rest → step s = .next { s with input := rest }) ∧
    (∀ w, s.input = .usb false false w :: rest → step s = .next { s with input := rest }) ∧
    (s.input = [] → step s = .next s)

/-- `10_state.md` R10, R55: operations of one instance leave the other, the parameter and the input alone. -/
def Obligations.OperationsStayInTheirInstance : Prop :=
  ∀ (i : Instr) (s : State), ∃ t, exec i s = .next t ∧ t.cfg = s.cfg ∧ t.input = s.input ∧
    (i.agent = .serial → t.usb = s.usb) ∧ (i.agent = .usb → t.serial = s.serial)

/-! ### Reset -/

/-- `10_state.md` R32, `70_reset_and_hazards.md` R200: the values the spec gives for reset. It says nothing
of the registers the spec leaves unspecified. -/
def Obligations.ResetStateHoldsTheResetValues : Prop :=
  State.reset.serial.runStatus = 0x00#8 ∧ State.reset.serial.cnt = false ∧
  State.reset.serial.sx.collecting = false ∧ State.reset.serial.sx.len = 0 ∧
  State.reset.serial.sx.cable = 0#4 ∧ State.reset.serial.event = .noMessage ∧
  controlState State.reset.serial = .idle ∧
  State.reset.usb.sx.collecting = false ∧ State.reset.usb.sx.len = 0 ∧
  State.reset.usb.sx.cable = 0#4 ∧ State.reset.usb.event = .noMessage

/-- `70_reset_and_hazards.md` R200: a reset edge gives its instance the same values from any state, and
the other instance keeps its own. -/
def Obligations.ResetEdgeLoadsTheResetValues : Prop :=
  (∀ (s : State) (v : Bool) (b : Byte) (rest : List Input), s.input = .serial true v b :: rest →
    ∃ t, step s = .next t ∧ t.serial.runStatus = 0x00#8 ∧ t.serial.cnt = false ∧
      t.serial.sx.collecting = false ∧ t.serial.sx.len = 0 ∧ t.serial.sx.cable = 0#4 ∧
      t.serial.event = .noMessage ∧ controlState t.serial = .idle ∧
      t.usb = s.usb ∧ t.cfg = s.cfg ∧ t.input = rest) ∧
  (∀ (s : State) (v : Bool) (w : PacketWord) (rest : List Input), s.input = .usb true v w :: rest →
    ∃ t, step s = .next t ∧ t.usb.sx.collecting = false ∧ t.usb.sx.len = 0 ∧ t.usb.sx.cable = 0#4 ∧
      t.usb.event = .noMessage ∧ t.serial = s.serial ∧ t.cfg = s.cfg ∧ t.input = rest)

/-- `70_reset_and_hazards.md` R201: a symbol presented at the edge of a reset is discarded. -/
def Obligations.ResetDiscardsTheSymbol : Prop :=
  ∀ (s : State) (rest : List Input),
    (∀ b c v, step { s with input := .serial true true b :: rest } =
      step { s with input := .serial true v c :: rest }) ∧
    (∀ w x v, step { s with input := .usb true true w :: rest } =
      step { s with input := .usb true v x :: rest })

/-! ### The accumulator primitives -/

/-- `40_sysex_accumulator.md` R91: `SX_PUSH` stores the byte at `sx_len` while capacity remains and drops
it silently otherwise, as it does every further byte; no index at or above the capacity is written. -/
def Obligations.PushStoresOrDrops : Prop :=
  ∀ (cap : Nat) (v : Byte) (a : SxAccumulator),
    (a.push cap v).cable = a.cable ∧ (a.push cap v).collecting = a.collecting ∧
    (a.len < cap → (a.push cap v).len = a.len + 1 ∧
      ∀ i, (a.push cap v).buf.read i = if i = a.len then some v else a.buf.read i) ∧
    (cap ≤ a.len → ∀ vs, a.pushAll cap vs = a) ∧
    (∀ i, cap ≤ i → (a.push cap v).buf.read i = a.buf.read i)

/-- `40_sysex_accumulator.md` R90: `SX_START` leaves a message of the one byte `0xF0` on the cable,
whatever was there, and keeps the old bytes above it. -/
def Obligations.StartOpensANewMessage : Prop :=
  ∀ (cap : Nat) (cn : Nibble) (a : SxAccumulator), 1 ≤ cap →
    (a.start cap cn).len = 1 ∧ (a.start cap cn).cable = cn ∧ (a.start cap cn).collecting = true ∧
    (a.start cap cn).buf.read 0 = some 0xF0#8 ∧
    ∀ i, 1 ≤ i → (a.start cap cn).buf.read i = a.buf.read i

/-- `40_sysex_accumulator.md` R92, R93: `SX_END` pushes the terminator if capacity remains, counting it,
(decision D11), and closes; `SX_CLOSE` clears `sx_collecting` only. -/
def Obligations.EndPushesTheTerminatorAndCloses : Prop :=
  ∀ (cap : Nat) (a : SxAccumulator),
    a.close = { a with collecting := false } ∧
    (a.finish cap).collecting = false ∧ (a.finish cap).cable = a.cable ∧
    (a.len < cap → (a.finish cap).len = a.len + 1 ∧
      ∀ i, (a.finish cap).buf.read i = if i = a.len then some 0xF7#8 else a.buf.read i) ∧
    (cap ≤ a.len → (a.finish cap).len = a.len ∧ ∀ i, (a.finish cap).buf.read i = a.buf.read i)

/-- `20_memory.md` R42, R46: bytes pushed one after another lie in the buffer in order of arrival, as far
as capacity allows, and nothing else changes. -/
def Obligations.PushedBytesLieInOrderOfArrival : Prop :=
  ∀ (cap : Nat) (vs : List Byte) (a : SxAccumulator), a.len ≤ cap →
    (a.pushAll cap vs).len = min (a.len + vs.length) cap ∧
    ∀ i, (a.pushAll cap vs).buf.read i =
      if a.len ≤ i ∧ i < min (a.len + vs.length) cap then vs[i - a.len]? else a.buf.read i

/-- `20_memory.md` R47, R48: under the invariant the SysEx view has `sx_len` bytes, each the one stored. -/
def Obligations.ViewReadsTheStoredBytes : Prop :=
  ∀ (cap : Nat) (g : Agent) (n : Nat) (a : SxAccumulator), a.Inv cap →
    (a.view g n).length = a.len ∧ ∀ i, i < a.len → (a.view g n)[i]? = a.buf.read i

/-! ### Serial operations: completion and result -/

/-- `41_serial_parser.md` R101, for the operations of R102 to R108: the status byte becomes the running
status and `cnt` is 0; an open SysEx message is ended in the same step, whose event it then is (decision
D10); the control state is `CHAN`. -/
def Obligations.ChannelStatusResult : Prop :=
  ∀ (s : State) (c : Nibble) (x : Instr × Byte), x ∈ channelStatusOps c →
    (s.serial.sx.collecting = false →
      exec x.1 s = .next { s with
        serial := { s.serial with event := .noMessage, runStatus := x.2, cnt := false } }) ∧
    (s.serial.sx.collecting = true →
      exec x.1 s = .next { s with
        serial := { s.serial with event := .sysexMessage, runStatus := x.2, cnt := false
                                  sx := s.serial.sx.finish s.cfg.sysexBufferSize } }) ∧
    ∃ t, exec x.1 s = .next t ∧ controlState t.serial = .chan

/-- `41_serial_parser.md` R109: the four arms of `DATA`, the third for each value of `cnt`. In the last,
`cm_data2` is not written, and is no part of the message (`93_implementation_defined.md` U2). `DATA`
completes in every state and keeps the control state. -/
def Obligations.DataByteResult : Prop :=
  ∀ (s : State) (b : Byte),
    (s.serial.sx.collecting = true →
      exec (.data b) s = .next { s with
        serial := { s.serial with event := .noMessage, sx := s.serial.sx.push s.cfg.sysexBufferSize b } }) ∧
    (s.serial.sx.collecting = false → s.serial.runStatus = 0x00#8 →
      exec (.data b) s = .next { s with serial := { s.serial with event := .noMessage } }) ∧
    (s.serial.sx.collecting = false → ndata s.serial.runStatus = some 2 → s.serial.cnt = false →
      exec (.data b) s = .next { s with
        serial := { s.serial with event := .noMessage, cnt := true, cm := { s.serial.cm with data1 := b } } }) ∧
    (s.serial.sx.collecting = false → ndata s.serial.runStatus = some 2 → s.serial.cnt = true →
      exec (.data b) s = .next { s with
        serial := { s.serial with
          event := .channelMessage, cnt := false
          cm := { header := s.serial.runStatus, data1 := s.serial.cm.data1, data2 := b, cable := 0#4 } } }) ∧
    (s.serial.sx.collecting = false → ndata s.serial.runStatus = some 1 →
      exec (.data b) s = .next { s with
        serial := { s.serial with
          event := .channelMessage
          cm := { header := s.serial.runStatus, data1 := b, data2 := s.serial.cm.data2, cable := 0#4 } } }) ∧
    ∃ t, exec (.data b) s = .next t ∧ t.serial.runStatus = s.serial.runStatus ∧
      controlState t.serial = controlState s.serial

/-- `41_serial_parser.md` R110: from any state a new message starts on cable 0, running status and `cnt`
are cleared (decisions D7, D5), no event; the control state is `SYSEX`. -/
def Obligations.SysexStartResult : Prop :=
  ∀ s : State,
    exec .sysexStart s = .next { s with
      serial := { s.serial with event := .noMessage, runStatus := 0x00#8, cnt := false
                                sx := s.serial.sx.start s.cfg.sysexBufferSize 0#4 } } ∧
    ∃ t, exec .sysexStart s = .next t ∧ controlState t.serial = .sysex

/-- `41_serial_parser.md` R111: `0xF7` ends the open message, and the control state is then `IDLE` if no
running status is held (R26 item 2); a stray one writes nothing but the event, which is `NO_MESSAGE`
(decision D12). -/
def Obligations.SysexEndResult : Prop :=
  ∀ s : State,
    (s.serial.sx.collecting = true →
      exec .sysexEnd s = .next { s with
        serial := { s.serial with event := .sysexMessage
                                  sx := s.serial.sx.finish s.cfg.sysexBufferSize } }) ∧
    (s.serial.sx.collecting = false →
      exec .sysexEnd s = .next { s with serial := { s.serial with event := .noMessage } }) ∧
    ∃ t, exec .sysexEnd s = .next t ∧
      (s.serial.sx.collecting = true → s.serial.runStatus = 0x00#8 → controlState t.serial = .idle) ∧
      (s.serial.sx.collecting = false → controlState t.serial = controlState s.serial)

/-- `41_serial_parser.md` R112, for the operations of R113 to R118: running status and `cnt` are cleared,
an open SysEx message is ended, and the control state is `IDLE` (decisions D8, D9). -/
def Obligations.SystemCommonResult : Prop :=
  ∀ (s : State) (i : Instr), i ∈ systemCommonOps →
    (s.serial.sx.collecting = false →
      exec i s = .next { s with
        serial := { s.serial with event := .noMessage, runStatus := 0x00#8, cnt := false } }) ∧
    (s.serial.sx.collecting = true →
      exec i s = .next { s with
        serial := { s.serial with event := .sysexMessage, runStatus := 0x00#8, cnt := false
                                  sx := s.serial.sx.finish s.cfg.sysexBufferSize } }) ∧
    ∃ t, exec i s = .next t ∧ controlState t.serial = .idle

/-- `41_serial_parser.md` R119, for the operations of R120 to R127: `rt_message`, `rt_cable` and `event`
are written and nothing else, in any state. -/
def Obligations.RealTimeResult : Prop :=
  ∀ (s : State) (x : Instr × Byte), x ∈ realTimeOps →
    exec x.1 s = .next { s with
      serial := { s.serial with event := .realtimeMessage, rt := { message := x.2, cable := 0#4 } } }

/-! ### USB operations: completion and result -/

/-- `42_usb_parser.md` R141, for the operations of R142 to R148: the payload is copied unchecked
(decision D16), with the cable number of byte 0. The register `cm_data2` takes `p3` for every type; for
the types of one data byte it is no part of the message (`93_implementation_defined.md` U2). -/
def Obligations.ChannelPacketResult : Prop :=
  ∀ (s : State) (cn : Nibble) (p1 p2 p3 : Byte) (i : Instr), i ∈ channelPacketOps cn p1 p2 p3 →
    exec i s = .next { s with
      usb := { s.usb with event := .channelMessage
                          cm := { header := p1, data1 := p2, data2 := p3, cable := cn } } }

/-- `42_usb_parser.md` R149 to R152 (the last two by decision D17): no register other than `event`
changes. -/
def Obligations.ReservedPacketResult : Prop :=
  ∀ (s : State) (cn : Nibble) (p1 p2 p3 : Byte) (i : Instr), i ∈ reservedOps cn p1 p2 p3 →
    exec i s = .next { s with usb := { s.usb with event := .noMessage } }

/-- `42_usb_parser.md` R153: start, continue, or an unstarted continuation (decisions D18, D19). -/
def Obligations.SysexStartContinueResult : Prop :=
  ∀ (s : State) (cn : Nibble) (p1 p2 p3 : Byte),
    (p1 = 0xF0#8 →
      exec (.cin4SysexStartCont cn p1 p2 p3) s = .next { s with
        usb := { s.usb with
          event := .noMessage
          sx := ((s.usb.sx.start s.cfg.sysexBufferSize cn).push s.cfg.sysexBufferSize p2).push
            s.cfg.sysexBufferSize p3 } }) ∧
    (p1 ≠ 0xF0#8 → s.usb.sx.collecting = true → s.usb.sx.cable = cn →
      exec (.cin4SysexStartCont cn p1 p2 p3) s = .next { s with
        usb := { s.usb with
          event := .noMessage
          sx := ((s.usb.sx.push s.cfg.sysexBufferSize p1).push s.cfg.sysexBufferSize p2).push
            s.cfg.sysexBufferSize p3 } }) ∧
    (p1 ≠ 0xF0#8 → ¬ (s.usb.sx.collecting = true ∧ s.usb.sx.cable = cn) →
      exec (.cin4SysexStartCont cn p1 p2 p3) s = .next { s with usb := { s.usb with event := .noMessage } })

/-- `42_usb_parser.md` R154: `p1 = 0xF7` ends the open message of the cable or does nothing; any other
`p1` is delivered as a single-byte message (decisions D19, D28). -/
def Obligations.SysexEndOneResult : Prop :=
  ∀ (s : State) (cn : Nibble) (p1 p2 p3 : Byte),
    (p1 = 0xF7#8 → s.usb.sx.collecting = true → s.usb.sx.cable = cn →
      exec (.cin5SysexEnd1 cn p1 p2 p3) s = .next { s with
        usb := { s.usb with event := .sysexMessage, sx := s.usb.sx.finish s.cfg.sysexBufferSize } }) ∧
    (p1 = 0xF7#8 → ¬ (s.usb.sx.collecting = true ∧ s.usb.sx.cable = cn) →
      exec (.cin5SysexEnd1 cn p1 p2 p3) s = .next { s with usb := { s.usb with event := .noMessage } }) ∧
    (p1 ≠ 0xF7#8 →
      exec (.cin5SysexEnd1 cn p1 p2 p3) s = .next { s with
        usb := { s.usb with event := .realtimeMessage, rt := { message := p1, cable := cn } } })

/-- `42_usb_parser.md` R155: a single-packet message of two bytes, the end of the open message with two
bytes, or an end without start (decisions D18, D19). -/
def Obligations.SysexEndTwoResult : Prop :=
  ∀ (s : State) (cn : Nibble) (p1 p2 p3 : Byte),
    (p1 = 0xF0#8 →
      exec (.cin6SysexEnd2 cn p1 p2 p3) s = .next { s with
        usb := { s.usb with
          event := .sysexMessage
          sx := ((s.usb.sx.start s.cfg.sysexBufferSize cn).push s.cfg.sysexBufferSize p2).close } }) ∧
    (p1 ≠ 0xF0#8 → s.usb.sx.collecting = true → s.usb.sx.cable = cn →
      exec (.cin6SysexEnd2 cn p1 p2 p3) s = .next { s with
        usb := { s.usb with
          event := .sysexMessage
          sx := ((s.usb.sx.push s.cfg.sysexBufferSize p1).push s.cfg.sysexBufferSize p2).close } }) ∧
    (p1 ≠ 0xF0#8 → ¬ (s.usb.sx.collecting = true ∧ s.usb.sx.cable = cn) →
      exec (.cin6SysexEnd2 cn p1 p2 p3) s = .next { s with usb := { s.usb with event := .noMessage } })

/-- `42_usb_parser.md` R156: the same with three bytes. -/
def Obligations.SysexEndThreeResult : Prop :=
  ∀ (s : State) (cn : Nibble) (p1 p2 p3 : Byte),
    (p1 = 0xF0#8 →
      exec (.cin7SysexEnd3 cn p1 p2 p3) s = .next { s with
        usb := { s.usb with
          event := .sysexMessage
          sx := (((s.usb.sx.start s.cfg.sysexBufferSize cn).push s.cfg.sysexBufferSize p2).push
            s.cfg.sysexBufferSize p3).close } }) ∧
    (p1 ≠ 0xF0#8 → s.usb.sx.collecting = true → s.usb.sx.cable = cn →
      exec (.cin7SysexEnd3 cn p1 p2 p3) s = .next { s with
        usb := { s.usb with
          event := .sysexMessage
          sx := (((s.usb.sx.push s.cfg.sysexBufferSize p1).push s.cfg.sysexBufferSize p2).push
            s.cfg.sysexBufferSize p3).close } }) ∧
    (p1 ≠ 0xF0#8 → ¬ (s.usb.sx.collecting = true ∧ s.usb.sx.cable = cn) →
      exec (.cin7SysexEnd3 cn p1 p2 p3) s = .next { s with usb := { s.usb with event := .noMessage } })

/-- `42_usb_parser.md` R157: `p1` is delivered unchecked as a single-byte message (decision D16). -/
def Obligations.SingleBytePacketResult : Prop :=
  ∀ (s : State) (cn : Nibble) (p1 p2 p3 : Byte),
    exec (.cinFSingleByte cn p1 p2 p3) s = .next { s with
      usb := { s.usb with event := .realtimeMessage, rt := { message := p1, cable := cn } } }

/-! ### Frames -/

/-- The forms that store nothing (`20_memory.md` R46): real-time bytes, channel, reserved and single-byte
packets. Every byte of memory reads as before, and every register but the ones their rules name. -/
def Obligations.FormsThatStoreNothing : Prop :=
  ∀ s t : State,
    (∀ x, x ∈ realTimeOps → exec x.1 s = .next t →
      SameMemory s t ∧ t.cfg = s.cfg ∧ t.usb = s.usb ∧ t.serial.runStatus = s.serial.runStatus ∧
      t.serial.cnt = s.serial.cnt ∧ t.serial.cm = s.serial.cm ∧ t.serial.sx = s.serial.sx ∧
      t.serial.resets = s.serial.resets) ∧
    (∀ cn p1 p2 p3 i, i ∈ channelPacketOps cn p1 p2 p3 → exec i s = .next t →
      SameMemory s t ∧ t.cfg = s.cfg ∧ t.serial = s.serial ∧ t.usb.rt = s.usb.rt ∧ t.usb.sx = s.usb.sx ∧
      t.usb.resets = s.usb.resets) ∧
    (∀ cn p1 p2 p3 i, i ∈ reservedOps cn p1 p2 p3 → exec i s = .next t →
      SameMemory s t ∧ t.cfg = s.cfg ∧ t.serial = s.serial ∧ t.usb.cm = s.usb.cm ∧ t.usb.rt = s.usb.rt ∧
      t.usb.sx = s.usb.sx ∧ t.usb.resets = s.usb.resets) ∧
    (∀ cn p1 p2 p3, exec (.cinFSingleByte cn p1 p2 p3) s = .next t →
      SameMemory s t ∧ t.cfg = s.cfg ∧ t.serial = s.serial ∧ t.usb.cm = s.usb.cm ∧ t.usb.sx = s.usb.sx ∧
      t.usb.resets = s.usb.resets)

/-- The serial forms that store at most one byte (`20_memory.md` R46): `DATA`, `SYSEX_END`, channel status
and system common bytes. While a message is open the byte goes to `storeIndex`, if there is one, and every
other byte of memory reads as before; with no message open all memory does. `DATA` also writes `cm_*` and
`cnt`; the status bytes `run_status` and `cnt`; nothing else but `sx_len`, `sx_collecting` and `event`. -/
def Obligations.SerialFormsThatStoreOneByte : Prop :=
  ∀ (s t : State) (i : Instr),
    (i = .sysexEnd ∨ i ∈ systemCommonOps ∨ (∃ b, i = .data b) ∨ ∃ c x, x ∈ channelStatusOps c ∧ i = x.1) →
    exec i s = .next t →
    (s.serial.sx.collecting = false → SameMemory s t ∧ t.serial.sx = s.serial.sx) ∧
    (s.serial.sx.collecting = true →
      (∀ a, s.serial.sx.storeIndex s.cfg.sysexBufferSize = some a →
        ∀ j, j ≠ a → t.serial.sx.buf.read j = s.serial.sx.buf.read j) ∧
      (s.serial.sx.storeIndex s.cfg.sysexBufferSize = none → SameMemory s t)) ∧
    t.cfg = s.cfg ∧ t.usb = s.usb ∧ t.serial.rt = s.serial.rt ∧ t.serial.sx.cable = s.serial.sx.cable ∧
    t.serial.resets = s.serial.resets ∧
    ((∀ b, i ≠ .data b) → t.serial.cm = s.serial.cm) ∧
    ((∃ b, i = .data b) → t.serial.runStatus = s.serial.runStatus ∧
      t.serial.sx.collecting = s.serial.sx.collecting) ∧
    (i = .sysexEnd → t.serial.runStatus = s.serial.runStatus ∧ t.serial.cnt = s.serial.cnt)

/-- `SYSEX_START` stores one byte, at the `storeIndex` of the message just opened; besides it writes
`sx_len`, `sx_cable`, `sx_collecting`, `run_status`, `cnt` and `event` (`41_serial_parser.md` R110). -/
def Obligations.SysexStartStoresOneByte : Prop :=
  ∀ s t : State, exec .sysexStart s = .next t →
    (∀ a, (s.serial.sx.opened 0#4).storeIndex s.cfg.sysexBufferSize = some a →
      ∀ j, j ≠ a → t.serial.sx.buf.read j = s.serial.sx.buf.read j) ∧
    t.cfg = s.cfg ∧ t.usb = s.usb ∧ t.serial.cm = s.serial.cm ∧ t.serial.rt = s.serial.rt ∧
    t.serial.resets = s.serial.resets

/-- The SysEx packets (`20_memory.md` R46) write memory only at the `storeIndexes` of the bytes they push:
into the message just opened when `p1 = 0xF0`, into the open message when it is of their cable, nowhere
otherwise. They write no `cm_*`, and no `rt_*` but for the single-byte use of code index 5. -/
def Obligations.SysexPacketsStoreOnlyTheirBytes : Prop :=
  ∀ (s t : State) (cn : Nibble) (p1 p2 p3 : Byte),
    (∀ x ∈ [(Instr.cin4SysexStartCont cn p1 p2 p3, [p1, p2, p3]), (Instr.cin6SysexEnd2 cn p1 p2 p3, [p1, p2]),
        (Instr.cin7SysexEnd3 cn p1 p2 p3, [p1, p2, p3])],
      exec x.1 s = .next t →
      (p1 = 0xF0#8 → ∀ j, j ∉ (s.usb.sx.opened cn).storeIndexes s.cfg.sysexBufferSize x.2 →
        t.usb.sx.buf.read j = s.usb.sx.buf.read j) ∧
      (p1 ≠ 0xF0#8 → openOn s.usb.sx cn = true →
        (∀ j, j ∉ s.usb.sx.storeIndexes s.cfg.sysexBufferSize x.2 →
          t.usb.sx.buf.read j = s.usb.sx.buf.read j) ∧ t.usb.sx.cable = s.usb.sx.cable) ∧
      (p1 ≠ 0xF0#8 → openOn s.usb.sx cn = false → SameMemory s t ∧ t.usb.sx = s.usb.sx) ∧
      t.cfg = s.cfg ∧ t.serial = s.serial ∧ t.usb.cm = s.usb.cm ∧ t.usb.rt = s.usb.rt ∧
      t.usb.resets = s.usb.resets) ∧
    (exec (.cin5SysexEnd1 cn p1 p2 p3) s = .next t →
      (p1 = 0xF7#8 → openOn s.usb.sx cn = true →
        (∀ a, s.usb.sx.storeIndex s.cfg.sysexBufferSize = some a →
          ∀ j, j ≠ a → t.usb.sx.buf.read j = s.usb.sx.buf.read j) ∧
        (s.usb.sx.storeIndex s.cfg.sysexBufferSize = none → SameMemory s t)) ∧
      (p1 = 0xF7#8 → openOn s.usb.sx cn = false → SameMemory s t ∧ t.usb.sx = s.usb.sx) ∧
      (p1 = 0xF7#8 → t.usb.rt = s.usb.rt) ∧
      (p1 ≠ 0xF7#8 → SameMemory s t ∧ t.usb.sx = s.usb.sx) ∧
      t.usb.sx.cable = s.usb.sx.cable ∧
      t.cfg = s.cfg ∧ t.serial = s.serial ∧ t.usb.cm = s.usb.cm ∧ t.usb.resets = s.usb.resets)

/-- `42_usb_parser.md` R160: packets that are not SysEx packets do not touch the accumulator (decision
D20). -/
def Obligations.OtherPacketsLeaveAnOpenMessage : Prop :=
  ∀ (s : State) (cn : Nibble) (p1 p2 p3 : Byte) (i : Instr),
    (i ∈ channelPacketOps cn p1 p2 p3 ∨ i ∈ reservedOps cn p1 p2 p3 ∨ i = .cinFSingleByte cn p1 p2 p3 ∨
      (i = .cin5SysexEnd1 cn p1 p2 p3 ∧ p1 ≠ 0xF7#8)) →
    ∃ t, exec i s = .next t ∧ t.usb.sx = s.usb.sx

/-- `42_usb_parser.md` R162, `30_encoding.md` R70: payload bytes an operation does not use do not matter.
For code indexes `0xC` and `0xD`, `p3` reaches only the register `cm_data2`, which the delivered message
leaves out. -/
def Obligations.PaddingDoesNotMatter : Prop :=
  ∀ (s : State) (cn : Nibble) (p1 p2 p3 q1 q2 q3 : Byte),
    exec (.cin5SysexEnd1 cn p1 p2 p3) s = exec (.cin5SysexEnd1 cn p1 q2 q3) s ∧
    exec (.cin6SysexEnd2 cn p1 p2 p3) s = exec (.cin6SysexEnd2 cn p1 p2 q3) s ∧
    exec (.cinFSingleByte cn p1 p2 p3) s = exec (.cinFSingleByte cn p1 q2 q3) s ∧
    exec (.cin0Misc cn p1 p2 p3) s = exec (.cin0Misc cn q1 q2 q3) s ∧
    exec (.cin1CableEvent cn p1 p2 p3) s = exec (.cin1CableEvent cn q1 q2 q3) s ∧
    exec (.cin2Syscom2 cn p1 p2 p3) s = exec (.cin2Syscom2 cn q1 q2 q3) s ∧
    exec (.cin3Syscom3 cn p1 p2 p3) s = exec (.cin3Syscom3 cn q1 q2 q3) s ∧
    (headerType p1 = 0xC#4 → ∃ t u, exec (.cinCProgramChange cn p1 p2 p3) s = .next t ∧
      exec (.cinCProgramChange cn p1 p2 q3) s = .next u ∧ t.usb.delivered = u.usb.delivered) ∧
    (headerType p1 = 0xD#4 → ∃ t u, exec (.cinDChannelPressure cn p1 p2 p3) s = .next t ∧
      exec (.cinDChannelPressure cn p1 p2 q3) s = .next u ∧ t.usb.delivered = u.usb.delivered)

/-! ### Invariants and whole-machine rules -/

/-- The invariant of `10_state.md` R11, R12, R25 and R26 holds after reset. -/
def Obligations.ResetMeetsTheInvariants : Prop := State.reset.Inv

/-- `10_state.md` R25, R26 (and R11, R12 for the Serial Parser): from every state that meets the
invariant, every step, of either instance or a reset, gives a state that meets it. -/
def Obligations.EveryStepKeepsTheInvariants : Prop :=
  ∀ s t : State, s.Inv → step s = .next t → t.Inv

/-- `41_serial_parser.md` R128: the transition table of the serial control state, with the event of the
step and `cnt`, for the six classes of bytes. -/
def Obligations.SerialTransitionTable : Prop :=
  ∀ (s : State) (b : Byte), s.serial.Inv s.cfg.sysexBufferSize →
    ∃ t, exec (decodeSerial b) s = .next t ∧
    (b < 0x80#8 →
      controlState t.serial = controlState s.serial ∧
      (controlState s.serial ≠ .chan → t.serial.event = .noMessage) ∧
      (controlState s.serial = .chan → s.serial.cnt = false → ndata s.serial.runStatus = some 2 →
        t.serial.cnt = true ∧ t.serial.event = .noMessage) ∧
      (controlState s.serial = .chan → s.serial.cnt = true →
        t.serial.cnt = false ∧ t.serial.event = .channelMessage) ∧
      (controlState s.serial = .chan → ndata s.serial.runStatus = some 1 →
        t.serial.cnt = false ∧ t.serial.event = .channelMessage)) ∧
    (0x80#8 ≤ b → b ≤ 0xEF#8 →
      controlState t.serial = .chan ∧ t.serial.cnt = false ∧
      t.serial.event = if controlState s.serial = .sysex then .sysexMessage else .noMessage) ∧
    (b = 0xF0#8 → controlState t.serial = .sysex ∧ t.serial.event = .noMessage) ∧
    (0xF1#8 ≤ b → b ≤ 0xF6#8 →
      controlState t.serial = .idle ∧
      t.serial.event = if controlState s.serial = .sysex then .sysexMessage else .noMessage) ∧
    (b = 0xF7#8 →
      (controlState s.serial = .sysex → controlState t.serial = .idle ∧ t.serial.event = .sysexMessage) ∧
      (controlState s.serial ≠ .sysex → controlState t.serial = controlState s.serial ∧
        t.serial.cnt = s.serial.cnt ∧ t.serial.event = .noMessage)) ∧
    (0xF8#8 ≤ b →
      controlState t.serial = controlState s.serial ∧ t.serial.cnt = s.serial.cnt ∧
      t.serial.event = .realtimeMessage)

/-- `10_state.md` R14: only channel status bytes, SysEx start and system common bytes write `run_status`,
and with these values. -/
def Obligations.OnlyStatusBytesWriteRunningStatus : Prop :=
  ∀ (s t : State) (i : Instr), exec i s = .next t → t.serial.runStatus ≠ s.serial.runStatus →
    (∃ c x, x ∈ channelStatusOps c ∧ i = x.1 ∧ t.serial.runStatus = x.2) ∨
    ((i = .sysexStart ∨ i ∈ systemCommonOps) ∧ t.serial.runStatus = 0x00#8)

/-- `10_state.md` R23, R25 item 5: only a SysEx start shortens a stored message or changes its cable tag. -/
def Obligations.OnlyAStartShortensAMessage : Prop :=
  ∀ (s t : State) (i : Instr), exec i s = .next t →
    (t.serial.sx.len < s.serial.sx.len ∨ t.serial.sx.cable ≠ s.serial.sx.cable → i = .sysexStart) ∧
    (t.usb.sx.len < s.usb.sx.len ∨ t.usb.sx.cable ≠ s.usb.sx.cable →
      ∃ cn p2 p3, i = .cin4SysexStartCont cn 0xF0#8 p2 p3 ∨ i = .cin6SysexEnd2 cn 0xF0#8 p2 p3 ∨
        i = .cin7SysexEnd3 cn 0xF0#8 p2 p3)

/-- `60_exceptions.md` R173, `95_test_vectors.md` Q10: an operation whose event is `REALTIME_MESSAGE`
changes only `rt_*` and `event` of its instance. -/
def Obligations.RealTimeEventsDisturbNothing : Prop :=
  ∀ (s t : State) (i : Instr), exec i s = .next t →
    (i.agent = .serial → t.serial.event = .realtimeMessage →
      t = { s with serial := { s.serial with rt := t.serial.rt, event := .realtimeMessage } }) ∧
    (i.agent = .usb → t.usb.event = .realtimeMessage →
      t = { s with usb := { s.usb with rt := t.usb.rt, event := .realtimeMessage } })

/-- `40_sysex_accumulator.md` R97: in the Serial Parser the last stored byte tells whether the terminator
fitted; if it did not, the message fills the buffer. -/
def Obligations.SerialTruncationShowsInTheLastByte : Prop :=
  ∀ (s t : State) (b : Byte), s.serial.Inv s.cfg.sysexBufferSize →
    exec (decodeSerial b) s = .next t → t.serial.event = .sysexMessage →
    (s.serial.sx.len < s.cfg.sysexBufferSize ∧ t.serial.sx.len = s.serial.sx.len + 1 ∧
      t.serial.sx.buf.read (t.serial.sx.len - 1) = some 0xF7#8) ∨
    (s.serial.sx.len = s.cfg.sysexBufferSize ∧ t.serial.sx.len = s.cfg.sysexBufferSize ∧
      t.serial.sx.buf.read (t.serial.sx.len - 1) ≠ some 0xF7#8)

/-- `10_state.md` R11, R12: a well-formed channel or real-time packet delivers a message that keeps the
value invariants; a message of one data byte is delivered without `data2`. -/
def Obligations.WellFormedPacketsDeliverWellFormedMessages : Prop :=
  ∀ (s : State) (cn : Nibble) (p1 p2 p3 : Byte) (i : Instr), i.payloadFits = true →
    (i ∈ channelPacketOps cn p1 p2 p3 →
      ∃ t, exec i s = .next t ∧ p2 < 0x80#8 ∧
        ((ndata p1 = some 2 ∧ p3 < 0x80#8 ∧ t.usb.delivered = .channel p1 p2 (some p3) cn) ∨
         (ndata p1 = some 1 ∧ t.usb.delivered = .channel p1 p2 none cn))) ∧
    (i = .cinFSingleByte cn p1 p2 p3 →
      ∃ t, exec i s = .next t ∧ 0xF8#8 ≤ p1 ∧ t.usb.delivered = .realTime p1 cn)

/-- `70_reset_and_hazards.md` R216: a start on another cable discards the open message, whose own
continuation and end packets are then ignored. -/
def Obligations.LaterStartDiscardsTheOpenMessage : Prop :=
  ∀ (s t : State) (cn other : Nibble) (p2 p3 q1 q2 q3 : Byte), other ≠ cn → q1 ≠ 0xF0#8 →
    exec (.cin4SysexStartCont cn 0xF0#8 p2 p3) s = .next t →
    t.usb.sx.cable = cn ∧ t.usb.sx.collecting = true ∧
    ∀ i ∈ [Instr.cin4SysexStartCont other q1 q2 q3, .cin5SysexEnd1 other 0xF7#8 q2 q3,
        .cin6SysexEnd2 other q1 q2 q3, .cin7SysexEnd3 other q1 q2 q3],
      exec i t = .next { t with usb := { t.usb with event := .noMessage } }

/-! ### Streams -/

/-- `95_test_vectors.md` Q1, `41_serial_parser.md` R101, R109: from any state a header of a two-data-byte
type and two data bytes deliver that message, exactly; the header's own step delivers the SysEx message it
ended, if one was open, and nothing otherwise. -/
def Obligations.TwoDataByteMessageFromAnyState : Prop :=
  ∀ (s : State) (h x y : Byte), ndata h = some 2 → x < 0x80#8 → y < 0x80#8 →
    ∃ d t, serialTrace s [h, x, y] = some ([d, .nothing, .channel h x (some y) 0#4], t) ∧
      (s.serial.sx.collecting = false → d = .nothing) ∧
      (s.serial.sx.collecting = true →
        d = .sysex s.serial.sx.cable
          ((s.serial.sx.finish s.cfg.sysexBufferSize).view .serial s.serial.resets)) ∧
      t.serial.runStatus = h ∧ t.serial.cnt = false ∧ controlState t.serial = .chan

/-- `95_test_vectors.md` Q2, `41_serial_parser.md` R106, R107: a header of a one-data-byte type and one
data byte deliver that message, without a `data2`. -/
def Obligations.OneDataByteMessageFromAnyState : Prop :=
  ∀ (s : State) (h x : Byte), ndata h = some 1 → x < 0x80#8 →
    ∃ d t, serialTrace s [h, x] = some ([d, .channel h x none 0#4], t) ∧
      t.serial.runStatus = h ∧ t.serial.cnt = false ∧ controlState t.serial = .chan

/-- `41_serial_parser.md` R129: after a channel message the running status is its header, and further data
bytes deliver further messages with it. -/
def Obligations.RunningStatusRepeatsTheHeader : Prop :=
  ∀ (s t : State) (b : Byte), s.serial.Inv s.cfg.sysexBufferSize →
    exec (decodeSerial b) s = .next t → t.serial.event = .channelMessage →
    controlState t.serial = .chan ∧ t.serial.cnt = false ∧ t.serial.runStatus = t.serial.cm.header ∧
    (∀ x y, ndata t.serial.cm.header = some 2 → x < 0x80#8 → y < 0x80#8 →
      ∃ u, serialTrace t [x, y] = some ([.nothing, .channel t.serial.cm.header x (some y) 0#4], u)) ∧
    (∀ x, ndata t.serial.cm.header = some 1 → x < 0x80#8 →
      ∃ u, serialTrace t [x] = some ([.channel t.serial.cm.header x none 0#4], u))

/-- `41_serial_parser.md` R130: after a header and the first of its two data bytes, the partial message is
dropped silently by a new header `k` (R101), by `0xF0` (R110), which stores the next data byte in the new
SysEx message, and by a system common byte (R112, decision D8), after which data bytes are ignored. The
other status bytes keep it: a stray terminator (R111 (a), decision D12) and every real-time byte (R119 (b)).
The decisions are the spec's own (log 14). `d` is what the first header itself ended. -/
def Obligations.PartialMessagesAreDroppedOnlyByStatusBytes : Prop :=
  ∀ (s : State) (h x y z : Byte), ndata h = some 2 → x < 0x80#8 → y < 0x80#8 → z < 0x80#8 →
    (∀ k, ndata k = some 2 → ∃ d t, serialTrace s [h, x, k, y, z] =
      some ([d, .nothing, .nothing, .nothing, .channel k y (some z) 0#4], t)) ∧
    (∀ k, ndata k = some 1 → ∃ d t, serialTrace s [h, x, k, y] =
      some ([d, .nothing, .nothing, .channel k y none 0#4], t)) ∧
    (∃ d t, serialTrace s [h, x, 0xF0#8, y] = some ([d, .nothing, .nothing, .nothing], t) ∧
      controlState t.serial = .sysex ∧ t.serial.cnt = false ∧
      t.serial.sx.len = min 2 s.cfg.sysexBufferSize ∧ t.serial.sx.buf.read 0 = some 0xF0#8 ∧
      (2 ≤ s.cfg.sysexBufferSize → t.serial.sx.buf.read 1 = some y)) ∧
    (∀ c, 0xF1#8 ≤ c → c ≤ 0xF6#8 → ∃ d t, serialTrace s [h, x, c, y, z] =
      some ([d, .nothing, .nothing, .nothing, .nothing], t) ∧ controlState t.serial = .idle) ∧
    (∃ d t, serialTrace s [h, x, 0xF7#8, y] =
      some ([d, .nothing, .nothing, .channel h x (some y) 0#4], t)) ∧
    (∀ r, 0xF8#8 ≤ r → ∃ d t, serialTrace s [h, x, r, y] =
      some ([d, .nothing, .realTime r 0#4, .channel h x (some y) 0#4], t))

/-- `41_serial_parser.md` R131: real-time bytes in a stream change neither the messages delivered nor the
final registers of the messages. -/
def Obligations.RealTimeBytesAreTransparent : Prop :=
  ∀ (s : State) (bs : List Byte), ∃ ds t ds' t',
    serialTrace s bs = some (ds, t) ∧
    serialTrace s (bs.filter (fun b => b < 0xF8#8)) = some (ds', t') ∧
    ds.filter Delivery.isMessage = ds'.filter Delivery.isMessage ∧
    t.serial.runStatus = t'.serial.runStatus ∧ t.serial.cnt = t'.serial.cnt ∧
    t.serial.cm = t'.serial.cm ∧ t.serial.sx = t'.serial.sx

/-- `95_test_vectors.md` Q5, both halves, from any state with no message open. A serial session without
`0xF0` (`41_serial_parser.md` R111 (b)), and a USB session without a packet of code index `0x4`, `0x6` or
`0x7` that carries `p1 = 0xF0` (`42_usb_parser.md` R153 to R156), delivers no SysEx message and leaves its
accumulator as it is. -/
def Obligations.NoSysexWithoutAStart : Prop :=
  (∀ (s : State) (bs : List Byte), s.serial.sx.collecting = false → 0xF0#8 ∉ bs →
    ∃ ds t, serialTrace s bs = some (ds, t) ∧ (∀ d ∈ ds, d.isSysex = false) ∧ t.serial.sx = s.serial.sx) ∧
  (∀ (s : State) (ws : List PacketWord), s.usb.sx.collecting = false →
    (∀ w ∈ ws, loNibble (packetByte w 0) ∈ [0x4#4, 0x6#4, 0x7#4] → packetByte w 1 ≠ 0xF0#8) →
    ∃ ds t, usbTrace s ws = some (ds, t) ∧ (∀ d ∈ ds, d.isSysex = false) ∧ t.usb.sx = s.usb.sx)

/-- `40_sysex_accumulator.md` R95, `95_test_vectors.md` Q4: the serial stream `F0 d1 .. dn F7`, from any
state, delivers the SysEx message of its first `CAP` bytes: the whole message when `n + 2 <= CAP`, and
`F0` with the first `CAP - 1` data bytes, without the terminator, otherwise. -/
def Obligations.SerialSysexDeliversTheFirstCapBytes : Prop :=
  ∀ (s : State) (ds : List Byte) (rest : List Input), (∀ d ∈ ds, d < 0x80#8) →
    s.input = serialEdges (sysexBytes ds) ++ rest →
    ∃ t, Host.Core.run Sys2Proof.core (ds.length + 2) s = .next t ∧
      t.serial.event = .sysexMessage ∧ t.serial.sx.collecting = false ∧
      t.serial.sx.len = min (ds.length + 2) s.cfg.sysexBufferSize ∧
      t.serial.delivered = .sysex 0#4 ((sysexBytes ds).take s.cfg.sysexBufferSize) ∧
      t.usb = s.usb ∧ t.input = rest

/-- `42_usb_parser.md` R159: a SysEx message cut into packets on one cable leaves the USB Packet Parser
with the length and the bytes the Serial Parser has after the same bytes, for every capacity; only the
cable tag differs. -/
def Obligations.UsbSysexEqualsSerialSysex : Prop :=
  ∀ (s : State) (cn : Nibble) (ds : List Byte), (∀ d ∈ ds, d < 0x80#8) →
    ∃ t u,
      Host.Core.run Sys2Proof.core (packetise cn (sysexBytes ds)).length
        { s with input := usbEdges (packetise cn (sysexBytes ds)) } = .next t ∧
      Host.Core.run Sys2Proof.core (sysexBytes ds).length
        { s with input := serialEdges (sysexBytes ds) } = .next u ∧
      t.usb.event = .sysexMessage ∧ u.serial.event = .sysexMessage ∧
      t.usb.sx.len = u.serial.sx.len ∧
      (∀ i, i < t.usb.sx.len → t.usb.sx.buf.read i = u.serial.sx.buf.read i) ∧
      t.usb.sx.cable = cn ∧ u.serial.sx.cable = 0#4 ∧ t.serial = s.serial

/-! ### The two instances -/

/-- `20_memory.md` R55: an edge of the Serial Parser and an edge of the USB Packet Parser give the same
state in either order. -/
def Obligations.EdgesOfTheTwoInstancesCommute : Prop :=
  ∀ (s : State) (e f : Input), e.isSerial = true → f.isSerial = false →
    ∃ a b t, takeEdge e s = .next a ∧ takeEdge f a = .next t ∧ takeEdge f s = .next b ∧ takeEdge e b = .next t

/-- `10_state.md` R10, `20_memory.md` R55: after any interleaving of edges each instance is as it would be
had only its own edges come: neither can learn of or change the other. -/
def Obligations.InstancesDoNotInterfere : Prop :=
  ∀ s : State, ∃ t u v,
    Host.Core.run Sys2Proof.core s.input.length s = .next t ∧
    Host.Core.run Sys2Proof.core (s.input.filter Input.isSerial).length
      { s with input := s.input.filter Input.isSerial } = .next u ∧
    Host.Core.run Sys2Proof.core (s.input.filter (fun e => !e.isSerial)).length
      { s with input := s.input.filter (fun e => !e.isSerial) } = .next v ∧
    t.serial = u.serial ∧ t.usb = v.usb
end

