-- ==== Sys2Proof/Laws/State.lean ====
section
/-! SUPPORT. One lemma per field per update of the state and its parts, and the frames of the two
instances' steps. -/

namespace Sys2Proof.Machine

section Emit
variable (e : Event) (p : SerialParser) (q : UsbParser)

@[simp] theorem SerialParser.emit_runStatus : (p.emit e).runStatus = p.runStatus := rfl
@[simp] theorem SerialParser.emit_cnt : (p.emit e).cnt = p.cnt := rfl
@[simp] theorem SerialParser.emit_cm : (p.emit e).cm = p.cm := rfl
@[simp] theorem SerialParser.emit_rt : (p.emit e).rt = p.rt := rfl
@[simp] theorem SerialParser.emit_event : (p.emit e).event = e := rfl
@[simp] theorem SerialParser.emit_sx : (p.emit e).sx = p.sx := rfl
@[simp] theorem SerialParser.emit_resets : (p.emit e).resets = p.resets := rfl
@[simp] theorem UsbParser.emit_cm : (q.emit e).cm = q.cm := rfl
@[simp] theorem UsbParser.emit_rt : (q.emit e).rt = q.rt := rfl
@[simp] theorem UsbParser.emit_event : (q.emit e).event = e := rfl
@[simp] theorem UsbParser.emit_sx : (q.emit e).sx = q.sx := rfl
@[simp] theorem UsbParser.emit_resets : (q.emit e).resets = q.resets := rfl
end Emit

section Reset
variable (n : Nat) (s : State)

@[simp] theorem SerialParser.atReset_runStatus : (SerialParser.atReset n).runStatus = 0x00#8 := rfl
@[simp] theorem SerialParser.atReset_cnt : (SerialParser.atReset n).cnt = false := rfl
@[simp] theorem SerialParser.atReset_event : (SerialParser.atReset n).event = .noMessage := rfl
@[simp] theorem SerialParser.atReset_sx : (SerialParser.atReset n).sx = .atReset := rfl
@[simp] theorem UsbParser.atReset_event : (UsbParser.atReset n).event = .noMessage := rfl
@[simp] theorem UsbParser.atReset_sx : (UsbParser.atReset n).sx = .atReset := rfl
@[simp] theorem SxAccumulator.atReset_buf : SxAccumulator.atReset.buf = [] := rfl
@[simp] theorem SxAccumulator.atReset_len : SxAccumulator.atReset.len = 0 := rfl
@[simp] theorem SxAccumulator.atReset_cable : SxAccumulator.atReset.cable = 0#4 := rfl
@[simp] theorem SxAccumulator.atReset_collecting : SxAccumulator.atReset.collecting = false := rfl
@[simp] theorem State.resetSerial_cfg : s.resetSerial.cfg = s.cfg := rfl
@[simp] theorem State.resetSerial_serial : s.resetSerial.serial = .atReset s.serial.resets := rfl
@[simp] theorem State.resetSerial_usb : s.resetSerial.usb = s.usb := rfl
@[simp] theorem State.resetSerial_input : s.resetSerial.input = s.input := rfl
@[simp] theorem State.resetUsb_cfg : s.resetUsb.cfg = s.cfg := rfl
@[simp] theorem State.resetUsb_serial : s.resetUsb.serial = s.serial := rfl
@[simp] theorem State.resetUsb_usb : s.resetUsb.usb = .atReset s.usb.resets := rfl
@[simp] theorem State.resetUsb_input : s.resetUsb.input = s.input := rfl
end Reset

section Present
variable (s : State) (e : Input)

@[simp] theorem State.presentEdge_cfg : (s.presentEdge e).cfg = s.cfg := rfl
@[simp] theorem State.presentEdge_serial : (s.presentEdge e).serial = s.serial := rfl
@[simp] theorem State.presentEdge_usb : (s.presentEdge e).usb = s.usb := rfl
@[simp] theorem State.presentEdge_input : (s.presentEdge e).input = e :: s.input := rfl
end Present

/-- Everything a step of the Serial Parser can do: it completes, and changes only its own instance. -/
theorem State.stepSerial_eq_next {s t : State} {f : Nat → SerialParser → SerialParser}
    (h : s.stepSerial f = .next t) :
    t.cfg = s.cfg ∧ t.usb = s.usb ∧ t.input = s.input ∧
      t.serial = f s.cfg.sysexBufferSize (s.serial.emit .noMessage) := by
  cases h; exact ⟨rfl, rfl, rfl, rfl⟩

/-- Everything a step of the USB Packet Parser can do. -/
theorem State.stepUsb_eq_next {s t : State} {f : Nat → UsbParser → UsbParser}
    (h : s.stepUsb f = .next t) :
    t.cfg = s.cfg ∧ t.serial = s.serial ∧ t.input = s.input ∧
      t.usb = f s.cfg.sysexBufferSize (s.usb.emit .noMessage) := by
  cases h; exact ⟨rfl, rfl, rfl, rfl⟩

end Sys2Proof.Machine
end

