-- ==== Sys2Proof/Laws/Accumulator.lean ====
section
/-! SUPPORT. What the accumulator primitives do, and that they keep the accumulator's invariant. -/

namespace Sys2Proof.Machine.SxAccumulator

variable {cap : Nat} (a : SxAccumulator) (v : Byte) (cn : Nibble)

theorem push_of_room (h : a.len < cap) :
    a.push cap v = { a with buf := a.buf.write a.len v, len := a.len + 1 } := by
  simp [push, storeIndex, h]

theorem push_of_full (h : cap ≤ a.len) : a.push cap v = a := by
  simp [push, storeIndex, Nat.not_lt.mpr h]

@[simp] theorem push_cable : (a.push cap v).cable = a.cable := by
  unfold push; split <;> rfl

@[simp] theorem push_collecting : (a.push cap v).collecting = a.collecting := by
  unfold push; split <;> rfl

@[simp] theorem opened_buf : (a.opened cn).buf = a.buf := rfl
@[simp] theorem opened_len : (a.opened cn).len = 0 := rfl
@[simp] theorem opened_cable : (a.opened cn).cable = cn := rfl
@[simp] theorem opened_collecting : (a.opened cn).collecting = true := rfl

@[simp] theorem close_buf : a.close.buf = a.buf := rfl
@[simp] theorem close_len : a.close.len = a.len := rfl
@[simp] theorem close_cable : a.close.cable = a.cable := rfl
@[simp] theorem close_collecting : a.close.collecting = false := rfl

@[simp] theorem pushAll_nil : a.pushAll cap [] = a := rfl
@[simp] theorem pushAll_cons (vs : List Byte) : a.pushAll cap (v :: vs) = (a.push cap v).pushAll cap vs := rfl

@[simp] theorem pushAll_cable (vs : List Byte) : (a.pushAll cap vs).cable = a.cable := by
  induction vs generalizing a with
  | nil => rfl
  | cons v vs ih => simp [ih]

@[simp] theorem pushAll_collecting (vs : List Byte) : (a.pushAll cap vs).collecting = a.collecting := by
  induction vs generalizing a with
  | nil => rfl
  | cons v vs ih => simp [ih]

theorem pushAll_append (vs ws : List Byte) :
    a.pushAll cap (vs ++ ws) = (a.pushAll cap vs).pushAll cap ws := by
  induction vs generalizing a with
  | nil => rfl
  | cons v vs ih => simp [ih]

@[simp] theorem start_cable : (a.start cap cn).cable = cn := by simp [start]
@[simp] theorem start_collecting : (a.start cap cn).collecting = true := by simp [start]
@[simp] theorem finish_cable : (a.finish cap).cable = a.cable := by simp [finish]
@[simp] theorem finish_collecting : (a.finish cap).collecting = false := rfl

/-- `SX_START` with a positive capacity leaves exactly the byte `0xF0` (`40_sysex_accumulator.md` R90 (c)). -/
theorem start_eq (h : 0 < cap) :
    a.start cap cn = { buf := a.buf.write 0 0xF0#8, len := 1, cable := cn, collecting := true } := by
  simp [start, push_of_room, h, opened]

theorem push_len : (a.push cap v).len = if a.len < cap then a.len + 1 else a.len := by
  by_cases h : a.len < cap
  · simp [push_of_room, h]
  · simp [push_of_full, Nat.not_lt.mp h, h]

theorem len_le_push_len : a.len ≤ (a.push cap v).len := by
  rw [push_len]; split <;> omega

/-- What reads after a push give. -/
theorem push_read (i : Nat) :
    (a.push cap v).buf.read i = if i = a.len ∧ a.len < cap then some v else a.buf.read i := by
  by_cases h : a.len < cap
  · simp [push_of_room, h, Memory.read_write]
  · simp [push_of_full, Nat.not_lt.mp h, h]

theorem push_wf (hw : a.buf.wf) : (a.push cap v).buf.wf := by
  by_cases h : a.len < cap
  · simpa [push_of_room, h] using Memory.write_wf _ _ _ hw
  · simpa [push_of_full, Nat.not_lt.mp h] using hw

/-! ### The invariant -/

variable {a v cn}

theorem Inv.push (h : a.Inv cap) : (a.push cap v).Inv cap where
  wf := a.push_wf v h.wf
  below := by
    by_cases hr : a.len < cap
    · rw [a.push_of_room v hr]
      intro c hc
      rcases Memory.mem_write hc with rfl | hc
      · exact hr
      · exact h.below c hc
    · rw [a.push_of_full v (Nat.not_lt.mp hr)]; exact h.below
  lenLe := by
    have := h.lenLe
    rw [push_len]; split <;> omega
  stored := by
    intro i hi
    rw [a.push_read v]
    split
    · rfl
    · rename_i hn
      refine h.stored i ?_
      rw [push_len] at hi
      split at hi <;> omega
  opened := by
    intro hc
    obtain ⟨h1, h0⟩ := h.opened (by simpa using hc)
    refine ⟨Nat.le_trans h1 (a.len_le_push_len v), ?_⟩
    rw [a.push_read v, if_neg (by omega), h0]

theorem Inv.pushAll {vs : List Byte} (h : a.Inv cap) : (a.pushAll cap vs).Inv cap := by
  induction vs generalizing a with
  | nil => exact h
  | cons v vs ih => exact ih h.push

theorem Inv.close (h : a.Inv cap) : a.close.Inv cap where
  wf := h.wf
  below := h.below
  lenLe := h.lenLe
  stored := h.stored
  opened := by simp

theorem Inv.start (hc : 0 < cap) (h : a.Inv cap) : (a.start cap cn).Inv cap where
  wf := by rw [a.start_eq cn hc]; exact Memory.write_wf _ _ _ h.wf
  below := by
    rw [a.start_eq cn hc]
    intro c hm
    rcases Memory.mem_write hm with rfl | hm
    · exact hc
    · exact h.below c hm
  lenLe := by rw [a.start_eq cn hc]; exact hc
  stored := by
    rw [a.start_eq cn hc]
    intro i hi
    have : i = 0 := Nat.lt_one_iff.mp hi
    simp [this, Memory.read_write]
  opened := by
    rw [a.start_eq cn hc]
    simp [Memory.read_write]

theorem Inv.finish (h : a.Inv cap) : (a.finish cap).Inv cap := h.push.close

/-- Closing a message that is open leaves what `SYSEX_MESSAGE` promises. -/
theorem Inv.close_delivered (h : a.Inv cap) (ho : a.collecting = true) : a.close.Delivered :=
  ⟨rfl, h.opened ho⟩

theorem Inv.finish_delivered (h : a.Inv cap) (ho : a.collecting = true) : (a.finish cap).Delivered :=
  h.push.close_delivered (by simpa using ho)

theorem Inv.atReset : SxAccumulator.atReset.Inv cap where
  wf := Memory.wf_nil
  below := by simp
  lenLe := Nat.zero_le _
  stored := by simp
  opened := by simp

end Sys2Proof.Machine.SxAccumulator
end

