-- ==== Sys2Proof/Laws/Decode.lean ====
section
/-! SUPPORT. The bit fields of bytes and packets as numbers, and what the decoder answers by class of
symbol. -/

namespace Sys2Proof

theorem statusByte_toNat (t c : Nibble) : (statusByte t c).toNat = t.toNat * 16 + c.toNat := by
  show (t ++ c).toNat = _
  rw [BitVec.toNat_append, ← Nat.shiftLeft_add_eq_or_of_lt c.isLt, Nat.shiftLeft_eq]

theorem hiNibble_toNat (b : Byte) : (hiNibble b).toNat = b.toNat / 16 := by
  have := b.isLt
  simp only [hiNibble, BitVec.extractLsb'_toNat, Nat.shiftRight_eq_div_pow]
  omega

theorem loNibble_toNat (b : Byte) : (loNibble b).toNat = b.toNat % 16 := by
  simp [loNibble]

@[simp] theorem hiNibble_statusByte (t c : Nibble) : hiNibble (statusByte t c) = t := by
  apply BitVec.eq_of_toNat_eq
  have := c.isLt
  rw [hiNibble_toNat, statusByte_toNat]
  omega

@[simp] theorem loNibble_statusByte (t c : Nibble) : loNibble (statusByte t c) = c := by
  apply BitVec.eq_of_toNat_eq
  have := c.isLt
  rw [loNibble_toNat, statusByte_toNat]
  omega

@[simp] theorem statusByte_nibbles (b : Byte) : statusByte (hiNibble b) (loNibble b) = b := by
  apply BitVec.eq_of_toNat_eq
  rw [statusByte_toNat, hiNibble_toNat, loNibble_toNat]
  omega

section Packet
variable (p0 p1 p2 p3 : Byte)

theorem packetWord_toNat :
    (packetWord p0 p1 p2 p3).toNat = p3.toNat * 2 ^ 24 + p2.toNat * 2 ^ 16 + p1.toNat * 2 ^ 8 + p0.toNat := by
  show (p3 ++ p2 ++ p1 ++ p0).toNat = _
  rw [BitVec.toNat_append, ← Nat.shiftLeft_add_eq_or_of_lt p0.isLt, BitVec.toNat_append,
    ← Nat.shiftLeft_add_eq_or_of_lt p1.isLt, BitVec.toNat_append, ← Nat.shiftLeft_add_eq_or_of_lt p2.isLt]
  simp only [Nat.shiftLeft_eq]
  omega

theorem packetByte_toNat (w : PacketWord) (k : Nat) :
    (packetByte w k).toNat = w.toNat / 2 ^ (8 * k) % 2 ^ 8 := by
  simp [packetByte, Nat.shiftRight_eq_div_pow]

@[simp] theorem packetByte_zero : packetByte (packetWord p0 p1 p2 p3) 0 = p0 := by
  apply BitVec.eq_of_toNat_eq
  have h := p0.isLt
  rw [packetByte_toNat, packetWord_toNat]
  omega

@[simp] theorem packetByte_one : packetByte (packetWord p0 p1 p2 p3) 1 = p1 := by
  apply BitVec.eq_of_toNat_eq
  have h0 := p0.isLt; have h1 := p1.isLt
  rw [packetByte_toNat, packetWord_toNat]
  omega

@[simp] theorem packetByte_two : packetByte (packetWord p0 p1 p2 p3) 2 = p2 := by
  apply BitVec.eq_of_toNat_eq
  have h0 := p0.isLt; have h1 := p1.isLt; have h2 := p2.isLt
  rw [packetByte_toNat, packetWord_toNat]
  omega

@[simp] theorem packetByte_three : packetByte (packetWord p0 p1 p2 p3) 3 = p3 := by
  apply BitVec.eq_of_toNat_eq
  have h0 := p0.isLt; have h1 := p1.isLt; have h2 := p2.isLt; have h3 := p3.isLt
  rw [packetByte_toNat, packetWord_toNat]
  omega

@[simp] theorem packetWord_bytes (w : PacketWord) :
    packetWord (packetByte w 0) (packetByte w 1) (packetByte w 2) (packetByte w 3) = w := by
  apply BitVec.eq_of_toNat_eq
  have h := w.isLt
  simp only [packetWord_toNat, packetByte_toNat]
  omega

end Packet

theorem decodePacket_packetWord (p0 p1 p2 p3 : Byte) :
    decodePacket (packetWord p0 p1 p2 p3) = decodePacketBytes p0 p1 p2 p3 := by simp [decodePacket]

/-- The sixteen values of a nibble. -/
theorem nibble_cases (c : Nibble) :
    c = 0x0#4 ∨ c = 0x1#4 ∨ c = 0x2#4 ∨ c = 0x3#4 ∨ c = 0x4#4 ∨ c = 0x5#4 ∨ c = 0x6#4 ∨ c = 0x7#4 ∨
    c = 0x8#4 ∨ c = 0x9#4 ∨ c = 0xA#4 ∨ c = 0xB#4 ∨ c = 0xC#4 ∨ c = 0xD#4 ∨ c = 0xE#4 ∨ c = 0xF#4 := by
  revert c; decide

/-- A data byte decodes to `DATA` (`30_encoding.md` R61). -/
theorem decodeSerial_data {b : Byte} (h : b < 0x80#8) : decodeSerial b = .data b := by
  simp [decodeSerial, h]

/-- The packet's code index and nothing else selects its row of the opcode table (R65). -/
theorem covers_packetWord (m : String) (cin cn : Nibble) (p1 p2 p3 : Byte) :
    (OpcodeRow.mk m .usb 0x0F#32 (cin.setWidth 32)).covers (packetWord (statusByte cn cin) p1 p2 p3) = true := by
  simp only [OpcodeRow.covers, beq_iff_eq]
  apply BitVec.eq_of_toNat_eq
  rw [BitVec.toNat_and, packetWord_toNat, statusByte_toNat]
  have h := cin.isLt
  show _ &&& (2 ^ 4 - 1) = _
  rw [Nat.and_two_pow_sub_one_eq_mod, BitVec.toNat_setWidth]
  omega

end Sys2Proof
end

