-- ==== Sys2Proof/Laws/PerInstr.lean ====
section
/-! SUPPORT. Per-instruction families. `TableRow`: the symbol the encoder gives a well-formed operation
belongs to the operation's own row of the opcode table, and that row is in the table. -/

namespace Sys2Proof.Laws.TableRow

/-- The encoder agrees with the masks and patterns of `opcode_table.json`. -/
def Statement (i : Instr) : Prop :=
  i.wellFormed = true → i.row ∈ opcodeTable ∧ i.row.agent = i.agent ∧ i.row.covers (encodeWord i) = true

theorem data (b : Byte) : Statement (.data b) := fun h => ⟨by simp [opcodeTable, Instr.row], rfl, by revert b; decide⟩
theorem noteOff (c : Nibble) : Statement (.noteOff c) := fun _ => ⟨by simp [opcodeTable, Instr.row], rfl, by revert c; decide⟩
theorem noteOn (c : Nibble) : Statement (.noteOn c) := fun _ => ⟨by simp [opcodeTable, Instr.row], rfl, by revert c; decide⟩
theorem polyPressure (c : Nibble) : Statement (.polyPressure c) := fun _ => ⟨by simp [opcodeTable, Instr.row], rfl, by revert c; decide⟩
theorem controlChange (c : Nibble) : Statement (.controlChange c) := fun _ => ⟨by simp [opcodeTable, Instr.row], rfl, by revert c; decide⟩
theorem programChange (c : Nibble) : Statement (.programChange c) := fun _ => ⟨by simp [opcodeTable, Instr.row], rfl, by revert c; decide⟩
theorem channelPressure (c : Nibble) : Statement (.channelPressure c) := fun _ => ⟨by simp [opcodeTable, Instr.row], rfl, by revert c; decide⟩
theorem pitchBend (c : Nibble) : Statement (.pitchBend c) := fun _ => ⟨by simp [opcodeTable, Instr.row], rfl, by revert c; decide⟩
theorem sysexStart : Statement .sysexStart := fun _ => ⟨by simp [opcodeTable, Instr.row], rfl, by decide⟩
theorem scF1 : Statement .scF1 := fun _ => ⟨by simp [opcodeTable, Instr.row], rfl, by decide⟩
theorem scF2 : Statement .scF2 := fun _ => ⟨by simp [opcodeTable, Instr.row], rfl, by decide⟩
theorem scF3 : Statement .scF3 := fun _ => ⟨by simp [opcodeTable, Instr.row], rfl, by decide⟩
theorem scF4 : Statement .scF4 := fun _ => ⟨by simp [opcodeTable, Instr.row], rfl, by decide⟩
theorem scF5 : Statement .scF5 := fun _ => ⟨by simp [opcodeTable, Instr.row], rfl, by decide⟩
theorem scF6 : Statement .scF6 := fun _ => ⟨by simp [opcodeTable, Instr.row], rfl, by decide⟩
theorem sysexEnd : Statement .sysexEnd := fun _ => ⟨by simp [opcodeTable, Instr.row], rfl, by decide⟩
theorem rtF8 : Statement .rtF8 := fun _ => ⟨by simp [opcodeTable, Instr.row], rfl, by decide⟩
theorem rtF9 : Statement .rtF9 := fun _ => ⟨by simp [opcodeTable, Instr.row], rfl, by decide⟩
theorem rtFA : Statement .rtFA := fun _ => ⟨by simp [opcodeTable, Instr.row], rfl, by decide⟩
theorem rtFB : Statement .rtFB := fun _ => ⟨by simp [opcodeTable, Instr.row], rfl, by decide⟩
theorem rtFC : Statement .rtFC := fun _ => ⟨by simp [opcodeTable, Instr.row], rfl, by decide⟩
theorem rtFD : Statement .rtFD := fun _ => ⟨by simp [opcodeTable, Instr.row], rfl, by decide⟩
theorem rtFE : Statement .rtFE := fun _ => ⟨by simp [opcodeTable, Instr.row], rfl, by decide⟩
theorem rtFF : Statement .rtFF := fun _ => ⟨by simp [opcodeTable, Instr.row], rfl, by decide⟩
theorem cin0Misc (cn : Nibble) (p1 p2 p3 : Byte) : Statement (.cin0Misc cn p1 p2 p3) := fun _ => ⟨by simp [opcodeTable, Instr.row], rfl, covers_packetWord ..⟩
theorem cin1CableEvent (cn : Nibble) (p1 p2 p3 : Byte) : Statement (.cin1CableEvent cn p1 p2 p3) := fun _ => ⟨by simp [opcodeTable, Instr.row], rfl, covers_packetWord ..⟩
theorem cin2Syscom2 (cn : Nibble) (p1 p2 p3 : Byte) : Statement (.cin2Syscom2 cn p1 p2 p3) := fun _ => ⟨by simp [opcodeTable, Instr.row], rfl, covers_packetWord ..⟩
theorem cin3Syscom3 (cn : Nibble) (p1 p2 p3 : Byte) : Statement (.cin3Syscom3 cn p1 p2 p3) := fun _ => ⟨by simp [opcodeTable, Instr.row], rfl, covers_packetWord ..⟩
theorem cin4SysexStartCont (cn : Nibble) (p1 p2 p3 : Byte) : Statement (.cin4SysexStartCont cn p1 p2 p3) := fun _ => ⟨by simp [opcodeTable, Instr.row], rfl, covers_packetWord ..⟩
theorem cin5SysexEnd1 (cn : Nibble) (p1 p2 p3 : Byte) : Statement (.cin5SysexEnd1 cn p1 p2 p3) := fun _ => ⟨by simp [opcodeTable, Instr.row], rfl, covers_packetWord ..⟩
theorem cin6SysexEnd2 (cn : Nibble) (p1 p2 p3 : Byte) : Statement (.cin6SysexEnd2 cn p1 p2 p3) := fun _ => ⟨by simp [opcodeTable, Instr.row], rfl, covers_packetWord ..⟩
theorem cin7SysexEnd3 (cn : Nibble) (p1 p2 p3 : Byte) : Statement (.cin7SysexEnd3 cn p1 p2 p3) := fun _ => ⟨by simp [opcodeTable, Instr.row], rfl, covers_packetWord ..⟩
theorem cin8NoteOff (cn : Nibble) (p1 p2 p3 : Byte) : Statement (.cin8NoteOff cn p1 p2 p3) := fun _ => ⟨by simp [opcodeTable, Instr.row], rfl, covers_packetWord ..⟩
theorem cin9NoteOn (cn : Nibble) (p1 p2 p3 : Byte) : Statement (.cin9NoteOn cn p1 p2 p3) := fun _ => ⟨by simp [opcodeTable, Instr.row], rfl, covers_packetWord ..⟩
theorem cinAPolyPressure (cn : Nibble) (p1 p2 p3 : Byte) : Statement (.cinAPolyPressure cn p1 p2 p3) := fun _ => ⟨by simp [opcodeTable, Instr.row], rfl, covers_packetWord ..⟩
theorem cinBControlChange (cn : Nibble) (p1 p2 p3 : Byte) : Statement (.cinBControlChange cn p1 p2 p3) := fun _ => ⟨by simp [opcodeTable, Instr.row], rfl, covers_packetWord ..⟩
theorem cinCProgramChange (cn : Nibble) (p1 p2 p3 : Byte) : Statement (.cinCProgramChange cn p1 p2 p3) := fun _ => ⟨by simp [opcodeTable, Instr.row], rfl, covers_packetWord ..⟩
theorem cinDChannelPressure (cn : Nibble) (p1 p2 p3 : Byte) : Statement (.cinDChannelPressure cn p1 p2 p3) := fun _ => ⟨by simp [opcodeTable, Instr.row], rfl, covers_packetWord ..⟩
theorem cinEPitchBend (cn : Nibble) (p1 p2 p3 : Byte) : Statement (.cinEPitchBend cn p1 p2 p3) := fun _ => ⟨by simp [opcodeTable, Instr.row], rfl, covers_packetWord ..⟩
theorem cinFSingleByte (cn : Nibble) (p1 p2 p3 : Byte) : Statement (.cinFSingleByte cn p1 p2 p3) := fun _ => ⟨by simp [opcodeTable, Instr.row], rfl, covers_packetWord ..⟩

end Sys2Proof.Laws.TableRow
end

