-- ==== Sys2Proof/Laws/Step.lean ====
section
/-! SUPPORT. What one operation and one step of the machine can do, said once. -/

namespace Sys2Proof.Machine

/-- An operation of the Serial Parser is a step of the Serial Parser, the same function from every state. -/
theorem exec_serial {i : Instr} (h : i.agent = .serial) : ∃ f, ∀ s, exec i s = s.stepSerial f := by
  cases i <;> first | exact ⟨_, fun _ => rfl⟩ | cases h

/-- An operation of the USB Packet Parser is a step of the USB Packet Parser. -/
theorem exec_usb {i : Instr} (h : i.agent = .usb) : ∃ f, ∀ s, exec i s = s.stepUsb f := by
  cases i <;> first | exact ⟨_, fun _ => rfl⟩ | cases h

/-- Every serial byte is an operation of the Serial Parser. -/
theorem decodeSerial_agent (b : Byte) : (decodeSerial b).agent = .serial := by
  unfold decodeSerial
  split
  · rfl
  · split <;> try rfl
    split <;> rfl

/-- Every packet is an operation of the USB Packet Parser. -/
theorem decodePacketBytes_agent (p0 p1 p2 p3 : Byte) : (decodePacketBytes p0 p1 p2 p3).agent = .usb := by
  simp only [decodePacketBytes]
  split <;> rfl

theorem decodePacket_agent (w : PacketWord) : (decodePacket w).agent = .usb :=
  decodePacketBytes_agent ..

/-- The six classes of serial bytes with what each decodes to (`30_encoding.md` R62, `41_serial_parser.md`
R100). -/
theorem decodeSerial_cases (b : Byte) :
    (b < 0x80#8 ∧ decodeSerial b = .data b) ∨
    (0x80#8 ≤ b ∧ b ≤ 0xEF#8 ∧ (ndata b).isSome = true ∧ (decodeSerial b, b) ∈ channelStatusOps (loNibble b)) ∨
    (b = 0xF0#8 ∧ decodeSerial b = .sysexStart) ∨
    (0xF1#8 ≤ b ∧ b ≤ 0xF6#8 ∧ decodeSerial b ∈ systemCommonOps) ∨
    (b = 0xF7#8 ∧ decodeSerial b = .sysexEnd) ∨
    (0xF8#8 ≤ b ∧ (decodeSerial b, b) ∈ realTimeOps) := by
  revert b; decide

/-- A header of a known type is a channel status byte. -/
theorem decodeSerial_header {h : Byte} (hn : (ndata h).isSome = true) :
    (decodeSerial h, h) ∈ channelStatusOps (loNibble h) := by
  revert h; decide

/-- The groups the serial operations fall into. -/
theorem serial_groups {i : Instr} (h : i.agent = .serial) :
    (∃ b, i = .data b) ∨ (∃ c x, x ∈ channelStatusOps c ∧ i = x.1) ∨ i = .sysexStart ∨
    i ∈ systemCommonOps ∨ i = .sysexEnd ∨ ∃ x, x ∈ realTimeOps ∧ i = x.1 := by
  cases i <;> first
    | (cases h; done)
    | simp [channelStatusOps, systemCommonOps, realTimeOps]

/-- The groups the USB operations fall into. -/
theorem usb_groups {i : Instr} (h : i.agent = .usb) :
    ∃ cn p1 p2 p3, i ∈ channelPacketOps cn p1 p2 p3 ∨ i ∈ reservedOps cn p1 p2 p3 ∨
      i = .cin4SysexStartCont cn p1 p2 p3 ∨ i = .cin5SysexEnd1 cn p1 p2 p3 ∨ i = .cin6SysexEnd2 cn p1 p2 p3 ∨
      i = .cin7SysexEnd3 cn p1 p2 p3 ∨ i = .cinFSingleByte cn p1 p2 p3 := by
  cases i <;> first
    | (cases h; done)
    | (rename_i cn p1 p2 p3; exact ⟨cn, p1, p2, p3, by simp [channelPacketOps, reservedOps]⟩)

/-- What a channel status byte does. -/
theorem exec_channelStatus {c : Nibble} {x : Instr × Byte} (hx : x ∈ channelStatusOps c) (s : State) :
    exec x.1 s = s.stepSerial (channelStatus x.2) := by
  simp only [channelStatusOps, List.mem_cons, List.not_mem_nil, or_false] at hx
  rcases hx with rfl | rfl | rfl | rfl | rfl | rfl | rfl <;> rfl

/-- What a system common byte does. -/
theorem exec_systemCommon {i : Instr} (hi : i ∈ systemCommonOps) (s : State) :
    exec i s = s.stepSerial systemCommon := by
  simp only [systemCommonOps, List.mem_cons, List.not_mem_nil, or_false] at hi
  rcases hi with rfl | rfl | rfl | rfl | rfl | rfl <;> rfl

/-- What a real-time byte does. -/
theorem exec_realTime {x : Instr × Byte} (hx : x ∈ realTimeOps) (s : State) :
    exec x.1 s = s.stepSerial (realTime x.2) := by
  simp only [realTimeOps, List.mem_cons, List.not_mem_nil, or_false] at hx
  rcases hx with rfl | rfl | rfl | rfl | rfl | rfl | rfl | rfl <;> rfl

/-- What a channel packet does. -/
theorem exec_channelPacket {cn : Nibble} {p1 p2 p3 : Byte} {i : Instr} (hi : i ∈ channelPacketOps cn p1 p2 p3)
    (s : State) : exec i s = s.stepUsb (channelPacket cn p1 p2 p3) := by
  simp only [channelPacketOps, List.mem_cons, List.not_mem_nil, or_false] at hi
  rcases hi with rfl | rfl | rfl | rfl | rfl | rfl | rfl <;> rfl

/-- What a packet with a reserved code index does. -/
theorem exec_reserved {cn : Nibble} {p1 p2 p3 : Byte} {i : Instr} (hi : i ∈ reservedOps cn p1 p2 p3)
    (s : State) : exec i s = s.stepUsb ignoredPacket := by
  simp only [reservedOps, List.mem_cons, List.not_mem_nil, or_false] at hi
  rcases hi with rfl | rfl | rfl | rfl <;> rfl

/-- With no input offered the state is held. -/
theorem step_of_nil {s : State} (h : s.input = []) : step s = .next s := by
  simp [step, takeNext, h]

/-- With an edge offered, the edge acts on the state without it. -/
theorem step_of_cons {s : State} {e : Input} {rest : List Input} (h : s.input = e :: rest) :
    step s = takeEdge e { s with input := rest } := by
  simp [step, takeNext, h]

/-- Everything an input edge can do: reset its instance, run the operation of its symbol, or nothing. -/
theorem takeEdge_cases (e : Input) (s : State) :
    (∃ v b, e = .serial true v b ∧ takeEdge e s = .next s.resetSerial) ∨
    (∃ v w, e = .usb true v w ∧ takeEdge e s = .next s.resetUsb) ∨
    (∃ b, e = .serial false true b ∧ takeEdge e s = exec (decodeSerial b) s) ∨
    (∃ w, e = .usb false true w ∧ takeEdge e s = exec (decodePacket w) s) ∨
    takeEdge e s = .next s := by
  rcases e with ⟨_ | _, _ | _, b⟩ | ⟨_ | _, _ | _, w⟩ <;> simp [takeEdge]

/-- An edge of the Serial Parser computes that instance from the parameter and that instance alone. -/
theorem takeEdge_serial {e : Input} (h : e.isSerial = true) :
    ∃ f : Config → SerialParser → SerialParser, ∀ s, takeEdge e s = .next { s with serial := f s.cfg s.serial } := by
  rcases e with ⟨_ | _, v, b⟩ | _
  · cases v
    · exact ⟨fun _ p => p, fun _ => rfl⟩
    · obtain ⟨f, hf⟩ := exec_serial (decodeSerial_agent b)
      exact ⟨fun c p => f c.sysexBufferSize (p.emit .noMessage), fun s => hf s⟩
  · exact ⟨fun _ p => .atReset p.resets, fun _ => rfl⟩
  · cases h

/-- An edge of the USB Packet Parser computes that instance from the parameter and that instance alone. -/
theorem takeEdge_usb {e : Input} (h : e.isSerial = false) :
    ∃ f : Config → UsbParser → UsbParser, ∀ s, takeEdge e s = .next { s with usb := f s.cfg s.usb } := by
  rcases e with _ | ⟨_ | _, v, w⟩
  · cases h
  · cases v
    · exact ⟨fun _ p => p, fun _ => rfl⟩
    · obtain ⟨f, hf⟩ := exec_usb (decodePacket_agent w)
      exact ⟨fun c p => f c.sysexBufferSize (p.emit .noMessage), fun s => hf s⟩
  · exact ⟨fun _ p => .atReset p.resets, fun _ => rfl⟩

end Sys2Proof.Machine
end

