-- ==== Sys2Proof/Laws/Serial.lean ====
section
/-! SUPPORT. The control state of the Serial Parser, what each class of serial bytes runs, and what
`DATA` keeps. -/

namespace Sys2Proof.Machine

/-- A header whose type has data bytes is not the value of no running status. -/
theorem ne_zero_of_ndata {h : Byte} {n : Nat} (hn : ndata h = some n) : h ≠ 0x00#8 := by
  rintro rfl; simp [ndata, headerType, hiNibble] at hn

theorem controlState_congr {p q : SerialParser} (h1 : p.runStatus = q.runStatus)
    (h2 : p.sx.collecting = q.sx.collecting) : controlState p = controlState q := by
  simp only [controlState, h1, h2]

theorem controlState_eq_chan {p : SerialParser} :
    controlState p = .chan ↔ p.sx.collecting = false ∧ p.runStatus ≠ 0x00#8 := by
  simp only [controlState]; split <;> simp_all

theorem controlState_eq_sysex {p : SerialParser} : controlState p = .sysex ↔ p.sx.collecting = true := by
  simp only [controlState]; split
  · simp_all
  · split <;> simp_all

theorem controlState_eq_idle {p : SerialParser} :
    controlState p = .idle ↔ p.sx.collecting = false ∧ p.runStatus = 0x00#8 := by
  simp only [controlState]; split <;> simp_all

/-- `DATA` keeps the running status and whether a message is open. -/
theorem dataByte_keeps (b : Byte) (cap : Nat) (p : SerialParser) :
    (dataByte b cap p).runStatus = p.runStatus ∧ (dataByte b cap p).sx.collecting = p.sx.collecting := by
  simp only [dataByte]; split
  · simp
  · split
    · simp
    · split
      · split <;> simp [emitChannel]
      · simp [emitChannel]

/-- Every serial byte falls into one of six classes, each with its procedure (`41_serial_parser.md`). -/
theorem exec_serial_class (b : Byte) (s : State) :
    (b < 0x80#8 ∧ exec (decodeSerial b) s = s.stepSerial (dataByte b)) ∨
    (0x80#8 ≤ b ∧ b ≤ 0xEF#8 ∧ (ndata b).isSome = true ∧
      exec (decodeSerial b) s = s.stepSerial (channelStatus b)) ∨
    (b = 0xF0#8 ∧ exec (decodeSerial b) s = s.stepSerial sysexStart) ∨
    (0xF1#8 ≤ b ∧ b ≤ 0xF6#8 ∧ exec (decodeSerial b) s = s.stepSerial systemCommon) ∨
    (b = 0xF7#8 ∧ exec (decodeSerial b) s = s.stepSerial sysexEnd) ∨
    (0xF8#8 ≤ b ∧ exec (decodeSerial b) s = s.stepSerial (realTime b)) := by
  rcases decodeSerial_cases b with ⟨hb, he⟩ | ⟨h1, h2, hn, he⟩ | ⟨rfl, he⟩ | ⟨h1, h2, he⟩ | ⟨rfl, he⟩ | ⟨h1, he⟩
  · exact .inl ⟨hb, by rw [he]; rfl⟩
  · exact .inr (.inl ⟨h1, h2, hn, exec_channelStatus he s⟩)
  · exact .inr (.inr (.inl ⟨rfl, by rw [he]; rfl⟩))
  · exact .inr (.inr (.inr (.inl ⟨h1, h2, exec_systemCommon he s⟩)))
  · exact .inr (.inr (.inr (.inr (.inl ⟨rfl, by rw [he]; rfl⟩))))
  · exact .inr (.inr (.inr (.inr (.inr ⟨h1, exec_realTime he s⟩))))

/-- `DATA` in terms of the state it runs on. -/
theorem exec_data {b : Byte} (h : b < 0x80#8) (s : State) :
    exec (decodeSerial b) s = s.stepSerial (dataByte b) := by
  rw [decodeSerial_data h]; rfl

/-- A channel status byte in terms of the state it runs on. -/
theorem exec_header {h : Byte} (hn : (ndata h).isSome = true) (s : State) :
    exec (decodeSerial h) s = s.stepSerial (channelStatus h) :=
  exec_channelStatus (decodeSerial_header hn) s

/-- A run of the byte stream, one byte at a time. -/
theorem serialTrace_cons {s t : State} {b : Byte} (h : exec (decodeSerial b) s = .next t) (bs : List Byte) :
    serialTrace s (b :: bs) = (serialTrace t bs).map (fun r => (t.serial.delivered :: r.1, r.2)) := by
  simp [serialTrace, h]

/-- The message of a cable is open (`40_sysex_accumulator.md` R94). -/
theorem openOn_iff {a : SxAccumulator} {cn : Nibble} :
    openOn a cn = true ↔ a.collecting = true ∧ a.cable = cn := by simp [openOn]

theorem SxAccumulator.storeIndex_eq_some {cap i : Nat} {a : SxAccumulator} :
    a.storeIndex cap = some i ↔ a.len < cap ∧ a.len = i := by
  simp [SxAccumulator.storeIndex]

theorem SxAccumulator.storeIndex_eq_none {cap : Nat} {a : SxAccumulator} :
    a.storeIndex cap = none ↔ cap ≤ a.len := by
  simp [SxAccumulator.storeIndex]

theorem SxAccumulator.len_le_pushAll_len (cap : Nat) (vs : List Byte) (a : SxAccumulator) :
    a.len ≤ (a.pushAll cap vs).len := by
  induction vs generalizing a with
  | nil => simp
  | cons v vs ih => exact Nat.le_trans (a.len_le_push_len v) (ih _)

/-- A step that completes is the first of a run of one step more. -/
theorem run_succ {k : Nat} {s t : State} (h : step s = .next t) :
    Host.Core.run Sys2Proof.core (k + 1) s = Host.Core.run Sys2Proof.core k t := by
  have h' : Sys2Proof.core.step s = .next t := h
  simp only [Host.Core.run, h']

end Sys2Proof.Machine
end

