-- ==== Sys2Proof/Laws/Usb.lean ====
section
/-! SUPPORT. What each class of packets runs, and runs of packet streams. -/

namespace Sys2Proof.Machine

/-- Every packet falls into one of seven classes by its code index, each with its procedure
(`42_usb_parser.md` R140). -/
theorem exec_usb_class (cn cin : Nibble) (p1 p2 p3 : Byte) (s : State) :
    (cin ≤ 0x3#4 ∧ exec (decodePacketBytes (statusByte cn cin) p1 p2 p3) s = s.stepUsb ignoredPacket) ∨
    (cin = 0x4#4 ∧ exec (decodePacketBytes (statusByte cn cin) p1 p2 p3) s =
      s.stepUsb (sysexStartCont cn p1 p2 p3)) ∨
    (cin = 0x5#4 ∧ exec (decodePacketBytes (statusByte cn cin) p1 p2 p3) s = s.stepUsb (sysexEndOne cn p1)) ∨
    (cin = 0x6#4 ∧ exec (decodePacketBytes (statusByte cn cin) p1 p2 p3) s =
      s.stepUsb (sysexEndWith cn p1 [p2])) ∨
    (cin = 0x7#4 ∧ exec (decodePacketBytes (statusByte cn cin) p1 p2 p3) s =
      s.stepUsb (sysexEndWith cn p1 [p2, p3])) ∨
    (0x8#4 ≤ cin ∧ cin ≤ 0xE#4 ∧ exec (decodePacketBytes (statusByte cn cin) p1 p2 p3) s =
      s.stepUsb (channelPacket cn p1 p2 p3)) ∨
    (cin = 0xF#4 ∧ exec (decodePacketBytes (statusByte cn cin) p1 p2 p3) s = s.stepUsb (singleByte cn p1)) := by
  simp only [decodePacketBytes, hiNibble_statusByte, loNibble_statusByte]
  rcases nibble_cases cin with rfl | rfl | rfl | rfl | rfl | rfl | rfl | rfl | rfl | rfl | rfl | rfl | rfl |
    rfl | rfl | rfl
  iterate 4 exact .inl ⟨by decide, rfl⟩
  · exact .inr (.inl ⟨rfl, rfl⟩)
  · exact .inr (.inr (.inl ⟨rfl, rfl⟩))
  · exact .inr (.inr (.inr (.inl ⟨rfl, rfl⟩)))
  · exact .inr (.inr (.inr (.inr (.inl ⟨rfl, rfl⟩))))
  iterate 7 exact .inr (.inr (.inr (.inr (.inr (.inl ⟨by decide, by decide, rfl⟩)))))
  · exact .inr (.inr (.inr (.inr (.inr (.inr ⟨rfl, rfl⟩)))))

/-- Every packet word is that of its cable number, its code index and its payload. -/
theorem decodePacket_eq (w : PacketWord) : decodePacket w = decodePacketBytes
    (statusByte (hiNibble (packetByte w 0)) (loNibble (packetByte w 0)))
    (packetByte w 1) (packetByte w 2) (packetByte w 3) := by
  rw [statusByte_nibbles, decodePacket]

/-- A run of the packet stream, one packet at a time. -/
theorem usbTrace_cons {s t : State} {w : PacketWord} (h : exec (decodePacket w) s = .next t)
    (ws : List PacketWord) :
    usbTrace s (w :: ws) = (usbTrace t ws).map (fun r => (t.usb.delivered :: r.1, r.2)) := by
  simp [usbTrace, h]

end Sys2Proof.Machine
end

