-- ==== Sys2Proof/Tests/Slice0.lean ====
section
/-! SUPPORT. Tests on small states, expected results from the spec's worked vectors
(`95_test_vectors.md`) or by hand from its rules, and a witness for the hypotheses of each statement. -/

namespace Sys2Proof.Tests

open Sys2Proof Sys2Proof.Machine

/-! ### Small states -/

/-- No message was ever opened. -/
def fresh : SxAccumulator := .atReset

/-- The open message `F0 01` on cable `cn`. -/
def opened2 (cn : Nibble) : SxAccumulator :=
  { buf := [(0, 0xF0#8), (1, 0x01#8)], len := 2, cable := cn, collecting := true }

/-- A Serial Parser with the given control registers; the result registers hold an earlier message. -/
def serialWith (rs : Byte) (cnt : Bool) (a : SxAccumulator) : SerialParser :=
  { runStatus := rs, cnt := cnt, cm := { header := 0xB0#8, data1 := 0x10#8, data2 := 0x55#8, cable := 0#4 }
    rt := { message := 0xFE#8, cable := 0#4 }, event := .realtimeMessage, sx := a, resets := 1 }

/-- A USB Packet Parser with the given accumulator. -/
def usbWith (a : SxAccumulator) : UsbParser :=
  { cm := { header := 0xB0#8, data1 := 0x10#8, data2 := 0x55#8, cable := 9#4 }
    rt := { message := 0xFE#8, cable := 9#4 }, event := .realtimeMessage, sx := a, resets := 1 }

/-- The state with these instances, capacity `cap`, and no input. -/
def stateOf (cap : Nat) (p : SerialParser) (q : UsbParser) : State :=
  { cfg := { spare := cap - 1 }, serial := p, usb := q, input := [] }

/-- Control state `IDLE`. -/
def idle : State := stateOf 8 (serialWith 0x00#8 false fresh) (usbWith fresh)

/-- Control state `CHAN` with this running status and `cnt`; if `cnt` is 1, `cm_data1` holds `0x10`. -/
def chan (rs : Byte) (cnt : Bool) : State := stateOf 8 (serialWith rs cnt fresh) (usbWith fresh)

/-- Both instances have the message `F0 01` open, on cables 0 and 1, with capacity `cap`. -/
def collecting (cap : Nat) : State := stateOf cap (serialWith 0x00#8 false (opened2 0#4)) (usbWith (opened2 1#4))

/-- The same states with an input edge to come. -/
def withEdge (s : State) (e : Input) : State := { s with input := [e] }

/-- The Serial Parser after an operation. -/
def serialAfter (i : Instr) (s : State) : Option SerialParser :=
  match exec i s with
  | .next t => some t.serial
  | _ => none

/-- The USB Packet Parser after an operation. -/
def usbAfter (i : Instr) (s : State) : Option UsbParser :=
  match exec i s with
  | .next t => some t.usb
  | _ => none

/-- What the Serial Parser delivers, with the control state, `run_status` and `cnt`. -/
def serialShows (i : Instr) (s : State) : Option (Delivery × ControlState × Byte × Bool) :=
  (serialAfter i s).map (fun p => (p.delivered, controlState p, p.runStatus, p.cnt))

/-- What the USB Packet Parser delivers, with `sx_collecting`, `sx_len` and `sx_cable`. -/
def usbShows (i : Instr) (s : State) : Option (Delivery × Bool × Nat × Nibble) :=
  (usbAfter i s).map (fun p => (p.delivered, p.sx.collecting, p.sx.len, p.sx.cable))

/-! ### Well-formedness -/

theorem test_wellFormed_refuses_data_with_bit7 : (Instr.data 0x80#8).wellFormed = false := by decide
theorem test_wellFormed_accepts_data : (Instr.data 0x7F#8).wellFormed = true := by decide
theorem test_payload_refuses_other_type :
    (Instr.cin9NoteOn 0#4 0x82#8 0x20#8 0x7F#8).payloadFits = false := by decide
theorem test_payload_refuses_status_as_data :
    (Instr.cin8NoteOff 0#4 0x82#8 0x20#8 0x80#8).payloadFits = false := by decide
theorem test_payload_refuses_single_byte_below_F8 :
    (Instr.cinFSingleByte 0#4 0xF7#8 0#8 0#8).payloadFits = false := by decide

/-! ### Decoding: words written out bit by bit from `30_encoding.md` R61 and R64 -/

theorem test_decode_channel_bytes :
    decodeSerial 0b00111100#8 = .data 0x3C#8 ∧
    decodeSerial 0b10000010#8 = .noteOff 2#4 ∧
    decodeSerial 0b10011010#8 = .noteOn 0xA#4 ∧
    decodeSerial 0b10100011#8 = .polyPressure 3#4 ∧
    decodeSerial 0b10110000#8 = .controlChange 0#4 ∧
    decodeSerial 0b11000101#8 = .programChange 5#4 ∧
    decodeSerial 0b11011111#8 = .channelPressure 0xF#4 ∧
    decodeSerial 0b11100001#8 = .pitchBend 1#4 ∧
    decodeSerial 0b11110000#8 = .sysexStart := by decide

theorem test_decode_system_bytes :
    decodeSerial 0b11110001#8 = .scF1 ∧
    decodeSerial 0b11110010#8 = .scF2 ∧
    decodeSerial 0b11110011#8 = .scF3 ∧
    decodeSerial 0b11110100#8 = .scF4 ∧
    decodeSerial 0b11110101#8 = .scF5 ∧
    decodeSerial 0b11110110#8 = .scF6 ∧
    decodeSerial 0b11110111#8 = .sysexEnd := by decide

theorem test_decode_realtime_bytes :
    decodeSerial 0b11111000#8 = .rtF8 ∧
    decodeSerial 0b11111001#8 = .rtF9 ∧
    decodeSerial 0b11111010#8 = .rtFA ∧
    decodeSerial 0b11111011#8 = .rtFB ∧
    decodeSerial 0b11111100#8 = .rtFC ∧
    decodeSerial 0b11111101#8 = .rtFD ∧
    decodeSerial 0b11111110#8 = .rtFE ∧
    decodeSerial 0b11111111#8 = .rtFF := by decide

theorem test_decode_packets_low :
    decodePacket 0b00100011000100101000000100010000#32 = .cin0Misc 1#4 0x81#8 0x12#8 0x23#8 ∧
    decodePacket 0b00100011000100101000000101000001#32 = .cin1CableEvent 4#4 0x81#8 0x12#8 0x23#8 ∧
    decodePacket 0b00100011000100101000000101110010#32 = .cin2Syscom2 7#4 0x81#8 0x12#8 0x23#8 ∧
    decodePacket 0b00100011000100101000000110100011#32 = .cin3Syscom3 10#4 0x81#8 0x12#8 0x23#8 ∧
    decodePacket 0b00100011000100101000000111010100#32 = .cin4SysexStartCont 13#4 0x81#8 0x12#8 0x23#8 ∧
    decodePacket 0b00100011000100101000000100000101#32 = .cin5SysexEnd1 0#4 0x81#8 0x12#8 0x23#8 ∧
    decodePacket 0b00100011000100101000000100110110#32 = .cin6SysexEnd2 3#4 0x81#8 0x12#8 0x23#8 ∧
    decodePacket 0b00100011000100101000000101100111#32 = .cin7SysexEnd3 6#4 0x81#8 0x12#8 0x23#8 := by decide

theorem test_decode_packets_high :
    decodePacket 0b00100011000100101000000110011000#32 = .cin8NoteOff 9#4 0x81#8 0x12#8 0x23#8 ∧
    decodePacket 0b00100011000100101000000111001001#32 = .cin9NoteOn 12#4 0x81#8 0x12#8 0x23#8 ∧
    decodePacket 0b00100011000100101000000111111010#32 = .cinAPolyPressure 15#4 0x81#8 0x12#8 0x23#8 ∧
    decodePacket 0b00100011000100101000000100101011#32 = .cinBControlChange 2#4 0x81#8 0x12#8 0x23#8 ∧
    decodePacket 0b00100011000100101000000101011100#32 = .cinCProgramChange 5#4 0x81#8 0x12#8 0x23#8 ∧
    decodePacket 0b00100011000100101000000110001101#32 = .cinDChannelPressure 8#4 0x81#8 0x12#8 0x23#8 ∧
    decodePacket 0b00100011000100101000000110111110#32 = .cinEPitchBend 11#4 0x81#8 0x12#8 0x23#8 ∧
    decodePacket 0b00100011000100101000000111101111#32 = .cinFSingleByte 14#4 0x81#8 0x12#8 0x23#8 := by decide

theorem test_decode_rejects_by_name :
    decode .serial [] = .error .notOneByte ∧ decode .serial [0xF8#8, 0xF8#8] = .error .notOneByte ∧
    decode .usb [0x08#8, 0x82#8, 0x20#8] = .error .notFourBytes := ⟨rfl, rfl, rfl⟩

/-- `95_test_vectors.md` E7: the packet as a word. -/
theorem test_word_of_packet : packetWord 0x08#8 0x82#8 0x20#8 0x7F#8 = 0x7F208208#32 := by decide

theorem test_encode_word : encodeWord (.cin6SysexEnd2 1#4 0x06#8 0xF7#8 0x00#8) = 0x00F70616#32 := by decide

theorem test_table_words :
    decodeTableWord 8 0x90 = some (.noteOn 0#4) ∧
    decodeTableWord 32 0x7F208208 = some (.cin8NoteOff 0#4 0x82#8 0x20#8 0x7F#8) ∧
    decodeTableWord 8 0x0F = some (.cinFSingleByte 0#4 0#8 0#8 0#8) ∧
    decodeTableWord 8 0x100 = none := by decide

/-! ### Fields and codes -/

/-- `00_scope.md` R4: `LENW` and `IDXW` of the capacities 1, 3, 4 and 8, by hand. -/
theorem test_widths :
    [0, 2, 3, 7].map (fun n => ((Config.mk n).lenWidth, (Config.mk n).indexWidth)) =
      [(1, 1), (2, 2), (3, 2), (4, 3)] := by decide

/-- `30_encoding.md` R64, third column. -/
theorem test_payload_counts :
    [0x3#4, 0x4#4, 0x5#4, 0x6#4, 0x7#4, 0x8#4, 0xC#4, 0xD#4, 0xF#4].map payloadCount =
      [0, 3, 1, 2, 3, 3, 2, 2, 1] := by decide

/-- `30_encoding.md` R68. -/
theorem test_realtime_names :
    realTimeName 0xF8#8 = some .timingClock ∧ realTimeName 0xF9#8 = some .undefinedVariant ∧
    realTimeName 0xFF#8 = some .systemReset ∧ realTimeName 0xF7#8 = none := by decide

/-! ### The accumulator: `95_test_vectors.md` section 3.1, capacity 4 -/

/-- The accumulator of AV2. -/
def av2 : SxAccumulator := ((fresh.start 4 5#4).push 4 0x11#8).push 4 0x22#8

theorem test_AV1 : fresh.start 4 5#4 = ⟨[(0, 0xF0#8)], 1, 5#4, true⟩ := by decide
theorem test_AV2 : av2 = ⟨[(0, 0xF0#8), (1, 0x11#8), (2, 0x22#8)], 3, 5#4, true⟩ := by decide
theorem test_AV3 : av2.finish 4 =
    ⟨[(0, 0xF0#8), (1, 0x11#8), (2, 0x22#8), (3, 0xF7#8)], 4, 5#4, false⟩ := by decide
theorem test_AV4 : (av2.push 4 0x33#8).finish 4 =
    ⟨[(0, 0xF0#8), (1, 0x11#8), (2, 0x22#8), (3, 0x33#8)], 4, 5#4, false⟩ := by decide
theorem test_AV5_AV6 : ((av2.pushAll 4 [0x33#8, 0x44#8, 0x55#8]).start 4 0#4) =
    ⟨[(0, 0xF0#8), (1, 0x11#8), (2, 0x22#8), (3, 0x33#8)], 1, 0#4, true⟩ := by decide
theorem test_AV7 : av2.close = ⟨[(0, 0xF0#8), (1, 0x11#8), (2, 0x22#8)], 3, 5#4, false⟩ := by decide
theorem test_AV8 : ((fresh.start 1 0#4).push 1 0x01#8).finish 1 = ⟨[(0, 0xF0#8)], 1, 0#4, false⟩ := by decide
theorem test_terminator_stored :
    terminatorStored [0xF0#8, 0x11#8, 0xF7#8] = true ∧ terminatorStored [0xF0#8, 0x11#8] = false := by decide

/-! ### Serial operations -/

/-- Vector SV1, second byte. -/
theorem test_data_first : serialShows (.data 0x3C#8) (chan 0x90#8 false) =
    some (.nothing, .chan, 0x90#8, true) := by decide
/-- Vector SV7, last byte. -/
theorem test_data_second : serialShows (.data 0x11#8) (chan 0x90#8 true) =
    some (.channel 0x90#8 0x10#8 (some 0x11#8) 0#4, .chan, 0x90#8, false) := by decide

/-- R101 from a partial message (vector SV5) and with an open one, which it ends (SV15). -/
theorem test_noteOff_drops_partial : serialShows (.noteOff 3#4) (chan 0x91#8 true) =
    some (.nothing, .chan, 0x83#8, false) := by decide
theorem test_noteOff_ends_sysex : serialShows (.noteOff 3#4) (collecting 8) =
    some (.sysex 0#4 [0xF0#8, 0x01#8, 0xF7#8], .chan, 0x83#8, false) := by decide

/-- R101 from a partial message (vector SV5) and with an open one, which it ends (SV15). -/
theorem test_noteOn_drops_partial : serialShows (.noteOn 3#4) (chan 0x91#8 true) =
    some (.nothing, .chan, 0x93#8, false) := by decide
theorem test_noteOn_ends_sysex : serialShows (.noteOn 3#4) (collecting 8) =
    some (.sysex 0#4 [0xF0#8, 0x01#8, 0xF7#8], .chan, 0x93#8, false) := by decide

/-- R101 from a partial message (vector SV5) and with an open one, which it ends (SV15). -/
theorem test_polyPressure_drops_partial : serialShows (.polyPressure 3#4) (chan 0x91#8 true) =
    some (.nothing, .chan, 0xA3#8, false) := by decide
theorem test_polyPressure_ends_sysex : serialShows (.polyPressure 3#4) (collecting 8) =
    some (.sysex 0#4 [0xF0#8, 0x01#8, 0xF7#8], .chan, 0xA3#8, false) := by decide

/-- R101 from a partial message (vector SV5) and with an open one, which it ends (SV15). -/
theorem test_controlChange_drops_partial : serialShows (.controlChange 3#4) (chan 0x91#8 true) =
    some (.nothing, .chan, 0xB3#8, false) := by decide
theorem test_controlChange_ends_sysex : serialShows (.controlChange 3#4) (collecting 8) =
    some (.sysex 0#4 [0xF0#8, 0x01#8, 0xF7#8], .chan, 0xB3#8, false) := by decide

/-- R101 from a partial message (vector SV5) and with an open one, which it ends (SV15). -/
theorem test_programChange_drops_partial : serialShows (.programChange 3#4) (chan 0x91#8 true) =
    some (.nothing, .chan, 0xC3#8, false) := by decide
theorem test_programChange_ends_sysex : serialShows (.programChange 3#4) (collecting 8) =
    some (.sysex 0#4 [0xF0#8, 0x01#8, 0xF7#8], .chan, 0xC3#8, false) := by decide

/-- R101 from a partial message (vector SV5) and with an open one, which it ends (SV15). -/
theorem test_channelPressure_drops_partial : serialShows (.channelPressure 3#4) (chan 0x91#8 true) =
    some (.nothing, .chan, 0xD3#8, false) := by decide
theorem test_channelPressure_ends_sysex : serialShows (.channelPressure 3#4) (collecting 8) =
    some (.sysex 0#4 [0xF0#8, 0x01#8, 0xF7#8], .chan, 0xD3#8, false) := by decide

/-- R101 from a partial message (vector SV5) and with an open one, which it ends (SV15). -/
theorem test_pitchBend_drops_partial : serialShows (.pitchBend 3#4) (chan 0x91#8 true) =
    some (.nothing, .chan, 0xE3#8, false) := by decide
theorem test_pitchBend_ends_sysex : serialShows (.pitchBend 3#4) (collecting 8) =
    some (.sysex 0#4 [0xF0#8, 0x01#8, 0xF7#8], .chan, 0xE3#8, false) := by decide

/-- Vector SV19: a start inside a channel message clears the running status. -/
theorem test_sysexStart : (serialAfter .sysexStart (chan 0x90#8 true)).map
    (fun p => (p.delivered, p.runStatus, p.cnt, p.sx)) =
    some (.nothing, 0x00#8, false, ⟨[(0, 0xF0#8)], 1, 0#4, true⟩) := by decide
/-- Vector SV9: a restart gives no event for the first message. -/
theorem test_sysexStart_restarts : (serialAfter .sysexStart (collecting 8)).map
    (fun p => (p.delivered, p.sx.len, p.sx.collecting)) = some (.nothing, 1, true) := by decide

/-- R92 with a full buffer, as in vector AV4: the terminator is dropped. -/
theorem test_sysexEnd_full : serialShows .sysexEnd (collecting 2) =
    some (.sysex 0#4 [0xF0#8, 0x01#8], .idle, 0x00#8, false) := by decide
/-- Vector SV7: a stray terminator keeps `cnt`. -/
theorem test_sysexEnd_stray : serialShows .sysexEnd (chan 0x90#8 true) =
    some (.nothing, .chan, 0x90#8, true) := by decide

/-- R112 as in vectors SV17 and SV18. -/
theorem test_scF1_ends_sysex : serialShows .scF1 (collecting 8) =
    some (.sysex 0#4 [0xF0#8, 0x01#8, 0xF7#8], .idle, 0x00#8, false) := by decide
theorem test_scF1_clears_running : serialShows .scF1 (chan 0x90#8 true) =
    some (.nothing, .idle, 0x00#8, false) := by decide

/-- R112 as in vectors SV17 and SV18. -/
theorem test_scF2_ends_sysex : serialShows .scF2 (collecting 8) =
    some (.sysex 0#4 [0xF0#8, 0x01#8, 0xF7#8], .idle, 0x00#8, false) := by decide
theorem test_scF2_clears_running : serialShows .scF2 (chan 0x90#8 true) =
    some (.nothing, .idle, 0x00#8, false) := by decide

/-- R112 as in vectors SV17 and SV18. -/
theorem test_scF3_ends_sysex : serialShows .scF3 (collecting 8) =
    some (.sysex 0#4 [0xF0#8, 0x01#8, 0xF7#8], .idle, 0x00#8, false) := by decide
theorem test_scF3_clears_running : serialShows .scF3 (chan 0x90#8 true) =
    some (.nothing, .idle, 0x00#8, false) := by decide

/-- R112 as in vectors SV17 and SV18. -/
theorem test_scF4_ends_sysex : serialShows .scF4 (collecting 8) =
    some (.sysex 0#4 [0xF0#8, 0x01#8, 0xF7#8], .idle, 0x00#8, false) := by decide
theorem test_scF4_clears_running : serialShows .scF4 (chan 0x90#8 true) =
    some (.nothing, .idle, 0x00#8, false) := by decide

/-- R112 as in vectors SV17 and SV18. -/
theorem test_scF5_ends_sysex : serialShows .scF5 (collecting 8) =
    some (.sysex 0#4 [0xF0#8, 0x01#8, 0xF7#8], .idle, 0x00#8, false) := by decide
theorem test_scF5_clears_running : serialShows .scF5 (chan 0x90#8 true) =
    some (.nothing, .idle, 0x00#8, false) := by decide

/-- R112 as in vectors SV17 and SV18. -/
theorem test_scF6_ends_sysex : serialShows .scF6 (collecting 8) =
    some (.sysex 0#4 [0xF0#8, 0x01#8, 0xF7#8], .idle, 0x00#8, false) := by decide
theorem test_scF6_clears_running : serialShows .scF6 (chan 0x90#8 true) =
    some (.nothing, .idle, 0x00#8, false) := by decide

/-- Vectors SV21, SV22: inside a channel message. -/
theorem test_rtF8 : serialShows .rtF8 (chan 0x90#8 true) =
    some (.realTime 0xF8#8 0#4, .chan, 0x90#8, true) := by decide
/-- Vectors SV21, SV22: inside a channel message. -/
theorem test_rtF9 : serialShows .rtF9 (chan 0x90#8 true) =
    some (.realTime 0xF9#8 0#4, .chan, 0x90#8, true) := by decide
/-- Vectors SV21, SV22: inside a channel message. -/
theorem test_rtFA : serialShows .rtFA (chan 0x90#8 true) =
    some (.realTime 0xFA#8 0#4, .chan, 0x90#8, true) := by decide
/-- Vectors SV21, SV22: inside a channel message. -/
theorem test_rtFB : serialShows .rtFB (chan 0x90#8 true) =
    some (.realTime 0xFB#8 0#4, .chan, 0x90#8, true) := by decide
/-- Vectors SV21, SV22: inside a channel message. -/
theorem test_rtFC : serialShows .rtFC (chan 0x90#8 true) =
    some (.realTime 0xFC#8 0#4, .chan, 0x90#8, true) := by decide
/-- Vectors SV21, SV22: inside a channel message. -/
theorem test_rtFD : serialShows .rtFD (chan 0x90#8 true) =
    some (.realTime 0xFD#8 0#4, .chan, 0x90#8, true) := by decide
/-- Vectors SV21, SV22: inside a channel message. -/
theorem test_rtFE : serialShows .rtFE (chan 0x90#8 true) =
    some (.realTime 0xFE#8 0#4, .chan, 0x90#8, true) := by decide
/-- Vectors SV21, SV22: inside a channel message. -/
theorem test_rtFF : serialShows .rtFF (chan 0x90#8 true) =
    some (.realTime 0xFF#8 0#4, .chan, 0x90#8, true) := by decide

/-! ### USB operations -/

/-- Vectors UV3, UV17: nothing but `event` changes. -/
theorem test_cin0Misc : usbAfter (.cin0Misc 1#4 0xF1#8 0x02#8 0x03#8) (collecting 8) =
    some { usbWith (opened2 1#4) with event := .noMessage } := by decide
/-- Vectors UV3, UV17: nothing but `event` changes. -/
theorem test_cin1CableEvent : usbAfter (.cin1CableEvent 1#4 0xF1#8 0x02#8 0x03#8) (collecting 8) =
    some { usbWith (opened2 1#4) with event := .noMessage } := by decide
/-- Vectors UV3, UV17: nothing but `event` changes. -/
theorem test_cin2Syscom2 : usbAfter (.cin2Syscom2 1#4 0xF1#8 0x02#8 0x03#8) (collecting 8) =
    some { usbWith (opened2 1#4) with event := .noMessage } := by decide
/-- Vectors UV3, UV17: nothing but `event` changes. -/
theorem test_cin3Syscom3 : usbAfter (.cin3Syscom3 1#4 0xF1#8 0x02#8 0x03#8) (collecting 8) =
    some { usbWith (opened2 1#4) with event := .noMessage } := by decide

/-- Vector UV11: a restart; UV14: bytes past the capacity are dropped. -/
theorem test_cin4_start : usbShows (.cin4SysexStartCont 0#4 0xF0#8 0x03#8 0x04#8) (collecting 8) =
    some (.nothing, true, 3, 0#4) := by decide
theorem test_cin4_continue : (usbAfter (.cin4SysexStartCont 1#4 0x03#8 0x04#8 0x05#8) (collecting 4)).map (·.sx) =
    some ⟨[(0, 0xF0#8), (1, 0x01#8), (2, 0x03#8), (3, 0x04#8)], 4, 1#4, true⟩ := by decide

/-- Vectors UV6 and UV4 (fourth packet). -/
theorem test_cin5_end : usbShows (.cin5SysexEnd1 1#4 0xF7#8 0#8 0#8) (collecting 8) =
    some (.sysex 1#4 [0xF0#8, 0x01#8, 0xF7#8], false, 3, 1#4) := by decide
theorem test_cin5_single : usbShows (.cin5SysexEnd1 0xA#4 0xF8#8 0#8 0#8) (collecting 8) =
    some (.realTime 0xF8#8 0xA#4, true, 2, 1#4) := by decide

/-- Vectors UV7 and UV21. -/
theorem test_cin6_end : usbShows (.cin6SysexEnd2 1#4 0x03#8 0xF7#8 0#8) (collecting 8) =
    some (.sysex 1#4 [0xF0#8, 0x01#8, 0x03#8, 0xF7#8], false, 4, 1#4) := by decide
theorem test_cin6_single_packet : usbShows (.cin6SysexEnd2 3#4 0xF0#8 0xF7#8 0#8) (collecting 8) =
    some (.sysex 3#4 [0xF0#8, 0xF7#8], false, 2, 3#4) := by decide

/-- Vectors UV23 (pushes tested one by one) and UV9 (an end of another cable). -/
theorem test_cin7_end_partly_stored : usbShows (.cin7SysexEnd3 1#4 0x03#8 0x04#8 0xF7#8) (collecting 3) =
    some (.sysex 1#4 [0xF0#8, 0x01#8, 0x03#8], false, 3, 1#4) := by decide
theorem test_cin7_other_cable : usbAfter (.cin7SysexEnd3 2#4 0x01#8 0x02#8 0xF7#8) (collecting 8) =
    some { usbWith (opened2 1#4) with event := .noMessage } := by decide

/-- Vectors E7, UV1. -/
theorem test_cin8NoteOff : usbShows (.cin8NoteOff 0#4 0x82#8 0x20#8 0x7F#8) (collecting 8) =
    some (.channel 0x82#8 0x20#8 (some 0x7F#8) 0#4, true, 2, 1#4) := by decide
/-- Vectors E7, UV1. -/
theorem test_cin9NoteOn : usbShows (.cin9NoteOn 1#4 0x90#8 0x3C#8 0x40#8) (collecting 8) =
    some (.channel 0x90#8 0x3C#8 (some 0x40#8) 1#4, true, 2, 1#4) := by decide
/-- Vectors E7, UV1. -/
theorem test_cinAPolyPressure : usbShows (.cinAPolyPressure 2#4 0xA1#8 0x3C#8 0x55#8) (collecting 8) =
    some (.channel 0xA1#8 0x3C#8 (some 0x55#8) 2#4, true, 2, 1#4) := by decide
/-- Vectors E7, UV1. -/
theorem test_cinBControlChange : usbShows (.cinBControlChange 15#4 0xBF#8 0x7F#8 0x7F#8) (collecting 8) =
    some (.channel 0xBF#8 0x7F#8 (some 0x7F#8) 15#4, true, 2, 1#4) := by decide
/-- Vectors E7, UV1. -/
theorem test_cinEPitchBend : usbShows (.cinEPitchBend 0#4 0xE0#8 0x00#8 0x40#8) (collecting 8) =
    some (.channel 0xE0#8 0x00#8 (some 0x40#8) 0#4, true, 2, 1#4) := by decide
/-- Vector UV2: no `data2`. -/
theorem test_cinCProgramChange : usbShows (.cinCProgramChange 4#4 0xC4#8 0x05#8 0x00#8) (collecting 8) =
    some (.channel 0xC4#8 0x05#8 none 4#4, true, 2, 1#4) := by decide
/-- Vector UV2: no `data2`. -/
theorem test_cinDChannelPressure : usbShows (.cinDChannelPressure 4#4 0xD4#8 0x33#8 0xAA#8) (collecting 8) =
    some (.channel 0xD4#8 0x33#8 none 4#4, true, 2, 1#4) := by decide
/-- Vector UV18, third packet: a malformed payload is copied unchecked. -/
theorem test_cinB_malformed : usbShows (.cinBControlChange 0#4 0xF8#8 0x90#8 0xFF#8) (collecting 8) =
    some (.channel 0xF8#8 0x90#8 (some 0xFF#8) 0#4, true, 2, 1#4) := by decide
/-- Vector UV4, first packet. -/
theorem test_cinF : usbShows (.cinFSingleByte 5#4 0xFA#8 0#8 0#8) (collecting 8) =
    some (.realTime 0xFA#8 5#4, true, 2, 1#4) := by decide

/-! ### The step -/

theorem test_step_serial_symbol :
    step (withEdge idle (.serial false true 0x90#8)) = exec (.noteOn 0#4) idle := rfl
theorem test_step_reset_wins :
    step (withEdge (collecting 8) (.usb true true 0x7F208208#32)) = .next (collecting 8).resetUsb := rfl
theorem test_step_no_symbol :
    step (withEdge (collecting 8) (.serial false false 0xF7#8)) = .next (collecting 8) := rfl
theorem test_withFetchWord :
    (idle.withFetchWord 32 0x7F208208).input = [.usb false true 0x7F208208#32] := by decide
theorem test_outputs_hold_between_steps : (chan 0x90#8 true).serial.outputs =
    { event := 3#2, cmHeader := 0xB0#8, cmData1 := 0x10#8, cmData2 := 0x55#8, cmCable := 0#4
      rtMessage := 0xFE#8, rtCable := 0#4, sxLen := 0, sxCable := 0#4 } := by decide

/-! ### Witnesses: the hypotheses of each statement hold together somewhere -/

theorem opened2_inv (cap : Nat) (h : 2 ≤ cap) (cn : Nibble) : (opened2 cn).Inv cap where
  wf := by simp [opened2]
  below := by simp [opened2]; omega
  lenLe := h
  stored := by decide +revert
  opened := fun _ => by simp [opened2, Memory.read]

/-- The serial invariant of the states above, when their control registers fit together. -/
theorem serialWith_inv {cap : Nat} {rs : Byte} {cnt : Bool} {a : SxAccumulator} (ha : a.Inv cap)
    (hd : ∀ i v, 1 ≤ i → i < a.len → a.buf.read i = some v → v < 0x80#8) (hc : a.cable = 0#4)
    (hr : rs = 0x00#8 ∨ (0x80#8 ≤ rs ∧ rs ≤ 0xEF#8)) (he : a.collecting = true → rs = 0x00#8)
    (hh : cnt = true → ndata rs = some 2 ∧ a.collecting = false) :
    (serialWith rs cnt a).Inv cap where
  sx := ha
  sysex := by simp [serialWith]
  dataBytes := fun i v h1 h2 h3 => .inl (hd i v h1 h2 h3)
  cable := hc
  running := hr
  exclusive := he
  held := fun h => ⟨(hh h).1, (hh h).2, by simp [serialWith]⟩
  channel := by simp [serialWith]
  realTime := fun _ => by simp [serialWith]

theorem chan_inv (rs : Byte) (cnt : Bool) (hr : rs = 0x00#8 ∨ (0x80#8 ≤ rs ∧ rs ≤ 0xEF#8))
    (hh : cnt = true → ndata rs = some 2) : (chan rs cnt).serial.Inv (chan rs cnt).cfg.sysexBufferSize :=
  serialWith_inv .atReset (by simp [fresh]) rfl hr (by simp [fresh]) (fun h => ⟨hh h, rfl⟩)

theorem collecting_inv (cap : Nat) (h : 2 ≤ cap) : (collecting cap).Inv where
  serial := serialWith_inv (opened2_inv _ (by simp [collecting, stateOf, Config.sysexBufferSize]; omega) _)
    (by
      intro i v h1 h2 h3
      have : i = 1 := by simp [opened2] at h2; omega
      subst this
      simp [opened2, Memory.read] at h3
      subst h3; decide)
    rfl (.inl rfl) (fun _ => rfl) (by simp)
  usb := ⟨opened2_inv _ (by simp [collecting, stateOf, Config.sysexBufferSize]; omega) _,
    by simp [collecting, stateOf, usbWith]⟩

theorem witness_DecodeInvertsEncode :
    (Instr.data 0x7F#8).wellFormed = true ∧ (Instr.cin0Misc 15#4 0xFF#8 0xFF#8 0xFF#8).wellFormed = true := by decide

theorem witness_WidthsHoldTheirRanges :
    (Config.mk 0).sysexBufferSize = 1 ∧ 2 ≤ (Config.mk 1).sysexBufferSize := by decide

theorem witness_HeaderFieldsAndDataByteCount :
    0x8#4 ∈ [0x8#4, 0x9#4, 0xA#4, 0xB#4, 0xE#4] ∧ 0xE#4 ∈ [0x8#4, 0x9#4, 0xA#4, 0xB#4, 0xE#4] ∧
    0xC#4 ∈ [0xC#4, 0xD#4] ∧ 0xD#4 ∈ [0xC#4, 0xD#4] := by decide

theorem witness_StepRunsTheDecodedSymbol :
    (withEdge idle (.serial false true 0xFF#8)).input = .serial false true 0xFF#8 :: [] ∧
    decode .serial [0xFF#8] = .ok .rtFF ∧
    (withEdge idle (.usb false true (packetWord 0x08#8 0x82#8 0x20#8 0x7F#8))).input =
      .usb false true (packetWord 0x08#8 0x82#8 0x20#8 0x7F#8) :: [] ∧
    decode .usb [0x08#8, 0x82#8, 0x20#8, 0x7F#8] = .ok (.cin8NoteOff 0#4 0x82#8 0x20#8 0x7F#8) := ⟨rfl, rfl, rfl, rfl⟩

theorem witness_PresentedTableWordRunsNext :
    decodeTableWord 8 0x00 = some (.data 0x00#8) ∧ decodeTableWord 8 0xFF = some .rtFF ∧
    decodeTableWord 32 0xFFFFFFFF = some (.cinFSingleByte 15#4 0xFF#8 0xFF#8 0xFF#8) := by decide

theorem witness_NoSymbolChangesNothing :
    (withEdge idle (.serial false false 0x90#8)).input = [.serial false false 0x90#8] ∧
    (withEdge idle (.usb false false 0#32)).input = [.usb false false 0#32] ∧ idle.input = [] := by decide

theorem witness_OperationsStayInTheirInstance :
    Instr.sysexStart.agent = .serial ∧ (Instr.cinFSingleByte 0#4 0xF8#8 0#8 0#8).agent = .usb := by decide

theorem witness_ResetEdgeLoadsTheResetValues :
    (withEdge (collecting 8) (.serial true true 0x90#8)).input = [.serial true true 0x90#8] ∧
    (withEdge (collecting 8) (.usb true false 0#32)).input = [.usb true false 0#32] := by decide

theorem witness_PushStoresOrDrops :
    (opened2 0#4).len < 3 ∧ 2 ≤ (opened2 0#4).len := by decide

theorem witness_StartOpensANewMessage :
    (1 : Nat) ≤ 1 ∧ (opened2 0#4).buf.read 1 = some 0x01#8 := by decide

theorem witness_EndPushesTheTerminatorAndCloses :
    (opened2 0#4).len < 3 ∧ 2 ≤ (opened2 0#4).len := by decide

theorem witness_PushedBytesLieInOrderOfArrival :
    (opened2 0#4).len ≤ 2 ∧ (opened2 0#4).len ≤ 4 := by decide

theorem witness_ViewReadsTheStoredBytes :
    (opened2 0#4).Inv 2 ∧ 1 < (opened2 0#4).len := ⟨opened2_inv 2 (Nat.le_refl 2) _, by decide⟩

theorem witness_ChannelStatusResult :
    (Instr.noteOff 0#4, statusByte 0x8#4 0#4) ∈ channelStatusOps 0#4 ∧
    (Instr.pitchBend 15#4, statusByte 0xE#4 15#4) ∈ channelStatusOps 15#4 ∧
    (chan 0x90#8 true).serial.sx.collecting = false ∧ (collecting 8).serial.sx.collecting = true := by decide

theorem witness_DataByteResult :
    (collecting 8).serial.sx.collecting = true ∧
    (idle.serial.sx.collecting = false ∧ idle.serial.runStatus = 0x00#8) ∧
    (ndata (chan 0x80#8 false).serial.runStatus = some 2 ∧ (chan 0x80#8 false).serial.cnt = false) ∧
    (ndata (chan 0xEF#8 true).serial.runStatus = some 2 ∧ (chan 0xEF#8 true).serial.cnt = true) ∧
    ndata (chan 0xC0#8 false).serial.runStatus = some 1 ∧ ndata (chan 0xDF#8 false).serial.runStatus = some 1 ∧
    ∀ rs cnt, (chan rs cnt).serial.sx.collecting = false := by decide

theorem witness_SysexEndResult :
    (collecting 8).serial.sx.collecting = true ∧ idle.serial.sx.collecting = false := by decide

theorem witness_SystemCommonResult :
    Instr.scF1 ∈ systemCommonOps ∧ Instr.scF6 ∈ systemCommonOps ∧
    (collecting 8).serial.sx.collecting = true ∧ idle.serial.sx.collecting = false := by decide

theorem witness_RealTimeResult :
    (Instr.rtF8, 0xF8#8) ∈ realTimeOps ∧ (Instr.rtFF, 0xFF#8) ∈ realTimeOps := by decide

theorem witness_ChannelPacketResult :
    Instr.cin8NoteOff 15#4 0x00#8 0xFF#8 0xFF#8 ∈ channelPacketOps 15#4 0x00#8 0xFF#8 0xFF#8 ∧
    Instr.cinEPitchBend 0#4 0xE0#8 0x00#8 0x40#8 ∈ channelPacketOps 0#4 0xE0#8 0x00#8 0x40#8 := by decide

theorem witness_ReservedPacketResult :
    Instr.cin0Misc 0#4 0#8 0#8 0#8 ∈ reservedOps 0#4 0#8 0#8 0#8 ∧
    Instr.cin3Syscom3 3#4 0xF2#8 0x01#8 0x02#8 ∈ reservedOps 3#4 0xF2#8 0x01#8 0x02#8 := by decide

theorem witness_SysexStartContinueResult :
    (0xF0#8 = 0xF0#8 ∧ 0x00#8 ≠ 0xF0#8) ∧ ((collecting 8).usb.sx.collecting = true ∧ (collecting 8).usb.sx.cable = 1#4) ∧
    ¬ ((collecting 8).usb.sx.collecting = true ∧ (collecting 8).usb.sx.cable = 2#4) ∧
    ¬ (idle.usb.sx.collecting = true ∧ idle.usb.sx.cable = 0#4) := by decide

theorem witness_SysexEndOneResult :
    (0xF7#8 = 0xF7#8 ∧ 0xF8#8 ≠ 0xF7#8) ∧ ((collecting 8).usb.sx.collecting = true ∧ (collecting 8).usb.sx.cable = 1#4) ∧
    ¬ ((collecting 8).usb.sx.collecting = true ∧ (collecting 8).usb.sx.cable = 2#4) ∧
    ¬ (idle.usb.sx.collecting = true ∧ idle.usb.sx.cable = 0#4) := by decide

theorem witness_SysexEndTwoResult :
    (0xF0#8 = 0xF0#8 ∧ 0xF7#8 ≠ 0xF0#8) ∧ ((collecting 8).usb.sx.collecting = true ∧ (collecting 8).usb.sx.cable = 1#4) ∧
    ¬ ((collecting 8).usb.sx.collecting = true ∧ (collecting 8).usb.sx.cable = 2#4) ∧
    ¬ (idle.usb.sx.collecting = true ∧ idle.usb.sx.cable = 0#4) := by decide

theorem witness_SysexEndThreeResult :
    (0xF0#8 = 0xF0#8 ∧ 0xF1#8 ≠ 0xF0#8) ∧ ((collecting 8).usb.sx.collecting = true ∧ (collecting 8).usb.sx.cable = 1#4) ∧
    ¬ ((collecting 8).usb.sx.collecting = true ∧ (collecting 8).usb.sx.cable = 2#4) ∧
    ¬ (idle.usb.sx.collecting = true ∧ idle.usb.sx.cable = 0#4) := by decide

theorem witness_FormsThatStoreNothing :
    (∃ t, exec Instr.rtF8 (collecting 8) = .next t) ∧ (Instr.rtF8, 0xF8#8) ∈ realTimeOps ∧
    (∃ t, exec (.cin8NoteOff 0#4 0x82#8 0x20#8 0x7F#8) (collecting 8) = .next t) ∧
    Instr.cin8NoteOff 0#4 0x82#8 0x20#8 0x7F#8 ∈ channelPacketOps 0#4 0x82#8 0x20#8 0x7F#8 ∧
    (∃ t, exec (.cin1CableEvent 0#4 0#8 0#8 0#8) (collecting 8) = .next t) ∧
    Instr.cin1CableEvent 0#4 0#8 0#8 0#8 ∈ reservedOps 0#4 0#8 0#8 0#8 ∧
    (∃ t, exec (.cinFSingleByte 0#4 0xF8#8 0#8 0#8) (collecting 8) = .next t) := ⟨⟨_, rfl⟩, by decide, ⟨_, rfl⟩, by decide, ⟨_, rfl⟩, by decide, ⟨_, rfl⟩⟩

theorem witness_SerialFormsThatStoreOneByte :
    (∃ t, exec .sysexEnd (collecting 8) = .next t) ∧ (∃ t, exec .scF1 (collecting 2) = .next t) ∧
    (∃ t, exec (.data 0x05#8) idle = .next t) ∧ (∃ t, exec (.noteOn 3#4) (collecting 8) = .next t) ∧
    Instr.scF1 ∈ systemCommonOps ∧ (Instr.noteOn 3#4, statusByte 0x9#4 3#4) ∈ channelStatusOps 3#4 ∧
    (collecting 8).serial.sx.storeIndex (collecting 8).cfg.sysexBufferSize = some 2 ∧
    (collecting 2).serial.sx.storeIndex (collecting 2).cfg.sysexBufferSize = none ∧
    (collecting 2).serial.sx.collecting = true ∧ idle.serial.sx.collecting = false := ⟨⟨_, rfl⟩, ⟨_, rfl⟩, ⟨_, rfl⟩, ⟨_, rfl⟩, by decide, by decide, by decide, by decide, by decide, by decide⟩

theorem witness_SysexStartStoresOneByte :
    (∃ t, exec .sysexStart (collecting 8) = .next t) ∧
    ((collecting 8).serial.sx.opened 0#4).storeIndex (collecting 8).cfg.sysexBufferSize = some 0 := ⟨⟨_, rfl⟩, by decide⟩

theorem witness_SysexPacketsStoreOnlyTheirBytes :
    (∃ t, exec (.cin4SysexStartCont 1#4 0xF0#8 0x02#8 0x03#8) (collecting 8) = .next t) ∧
    (∃ t, exec (.cin6SysexEnd2 1#4 0x02#8 0xF7#8 0#8) (collecting 8) = .next t) ∧
    (∃ t, exec (.cin7SysexEnd3 2#4 0x02#8 0x03#8 0xF7#8) (collecting 8) = .next t) ∧
    (∃ t, exec (.cin5SysexEnd1 1#4 0xF7#8 0#8 0#8) (collecting 2) = .next t) ∧
    openOn (collecting 8).usb.sx 1#4 = true ∧ openOn (collecting 8).usb.sx 2#4 = false ∧
    (collecting 8).usb.sx.storeIndexes (collecting 8).cfg.sysexBufferSize [0x02#8, 0xF7#8] = [2, 3] ∧
    (collecting 8).usb.sx.storeIndex (collecting 8).cfg.sysexBufferSize = some 2 ∧
    openOn (collecting 2).usb.sx 1#4 = true ∧
    (collecting 2).usb.sx.storeIndex (collecting 2).cfg.sysexBufferSize = none := ⟨⟨_, rfl⟩, ⟨_, rfl⟩, ⟨_, rfl⟩, ⟨_, rfl⟩, by decide, by decide, by decide, by decide, by decide, by decide⟩

theorem witness_OtherPacketsLeaveAnOpenMessage :
    Instr.cinBControlChange 1#4 0xB0#8 0x07#8 0x64#8 ∈ channelPacketOps 1#4 0xB0#8 0x07#8 0x64#8 ∧
    Instr.cin2Syscom2 1#4 0xF1#8 0x05#8 0#8 ∈ reservedOps 1#4 0xF1#8 0x05#8 0#8 ∧ 0xF6#8 ≠ 0xF7#8 := by decide

theorem witness_PaddingDoesNotMatter :
    headerType 0xC0#8 = 0xC#4 ∧ headerType 0xDF#8 = 0xD#4 := by decide

theorem witness_EveryStepKeepsTheInvariants :
    (collecting 8).Inv ∧ ∃ t, step (collecting 8) = .next t := ⟨collecting_inv 8 (by decide), _, rfl⟩

theorem witness_EveryStepKeepsTheInvariants_of_a_symbol :
    (withEdge (collecting 2) (.serial false true 0x05#8)).Inv ∧
    ∃ t, step (withEdge (collecting 2) (.serial false true 0x05#8)) = .next t := ⟨⟨(collecting_inv 2 (by decide)).serial, (collecting_inv 2 (by decide)).usb⟩, _, rfl⟩

/-- A state of each control state with the invariant, and each class of bytes at the ends of its range. -/
theorem witness_SerialTransitionTable :
    (idle.serial.Inv idle.cfg.sysexBufferSize ∧ controlState idle.serial = .idle) ∧
    ((chan 0x80#8 false).serial.Inv (chan 0x80#8 false).cfg.sysexBufferSize ∧
      controlState (chan 0x80#8 false).serial = .chan ∧ ndata 0x80#8 = some 2) ∧
    ((chan 0xEF#8 true).serial.Inv (chan 0xEF#8 true).cfg.sysexBufferSize ∧
      controlState (chan 0xEF#8 true).serial = .chan ∧ (chan 0xEF#8 true).serial.cnt = true) ∧
    ((chan 0xC0#8 false).serial.Inv (chan 0xC0#8 false).cfg.sysexBufferSize ∧
      controlState (chan 0xC0#8 false).serial = .chan ∧ ndata 0xC0#8 = some 1) ∧
    ((collecting 2).serial.Inv (collecting 2).cfg.sysexBufferSize ∧
      controlState (collecting 2).serial = .sysex) ∧
    (0x7F#8 < 0x80#8 ∧ 0x80#8 ≤ 0x80#8 ∧ 0xEF#8 ≤ 0xEF#8 ∧ 0xF1#8 ≤ 0xF1#8 ∧ 0xF6#8 ≤ 0xF6#8 ∧
      0xF8#8 ≤ 0xF8#8 ∧ 0xF8#8 ≤ 0xFF#8) :=
  ⟨⟨chan_inv 0x00#8 false (.inl rfl) (by simp), by decide⟩,
   ⟨chan_inv _ _ (.inr (by decide)) (by simp), by decide⟩,
   ⟨chan_inv _ _ (.inr (by decide)) (fun _ => by decide), by decide⟩,
   ⟨chan_inv _ _ (.inr (by decide)) (by simp), by decide⟩,
   ⟨(collecting_inv 2 (by decide)).serial, by decide⟩, by decide⟩

theorem witness_OnlyStatusBytesWriteRunningStatus :
    (∃ t, exec (.noteOn 0#4) idle = .next t ∧ t.serial.runStatus ≠ idle.serial.runStatus) ∧
    (∃ t, exec .scF1 (chan 0x90#8 true) = .next t ∧ t.serial.runStatus ≠ (chan 0x90#8 true).serial.runStatus) := ⟨⟨_, rfl, by decide⟩, _, rfl, by decide⟩

theorem witness_OnlyAStartShortensAMessage :
    (∃ t, exec .sysexStart (collecting 8) = .next t ∧ t.serial.sx.len < (collecting 8).serial.sx.len) ∧
    (∃ t, exec (.cin6SysexEnd2 2#4 0xF0#8 0xF7#8 0#8) (collecting 8) = .next t ∧
      t.usb.sx.cable ≠ (collecting 8).usb.sx.cable) := ⟨⟨_, rfl, by decide⟩, _, rfl, by decide⟩

theorem witness_RealTimeEventsDisturbNothing :
    (∃ t, exec .rtFF (chan 0x90#8 true) = .next t ∧ t.serial.event = .realtimeMessage) ∧
    (∃ t, exec (.cin5SysexEnd1 1#4 0xF6#8 0#8 0#8) (collecting 8) = .next t ∧ t.usb.event = .realtimeMessage) := ⟨⟨_, rfl, rfl⟩, _, rfl, rfl⟩

theorem witness_SerialTruncationShowsInTheLastByte :
    ((collecting 8).serial.Inv (collecting 8).cfg.sysexBufferSize ∧
      ∃ t, exec (decodeSerial 0xF7#8) (collecting 8) = .next t ∧ t.serial.event = .sysexMessage) ∧
    ((collecting 2).serial.Inv (collecting 2).cfg.sysexBufferSize ∧
      ∃ t, exec (decodeSerial 0x90#8) (collecting 2) = .next t ∧ t.serial.event = .sysexMessage) := ⟨⟨(collecting_inv 8 (by decide)).serial, _, rfl, rfl⟩, (collecting_inv 2 (by decide)).serial, _, rfl, rfl⟩

theorem witness_WellFormedPacketsDeliverWellFormedMessages :
    (Instr.cin9NoteOn 1#4 0x90#8 0x00#8 0x7F#8).payloadFits = true ∧
    Instr.cin9NoteOn 1#4 0x90#8 0x00#8 0x7F#8 ∈ channelPacketOps 1#4 0x90#8 0x00#8 0x7F#8 ∧
    (Instr.cinDChannelPressure 1#4 0xDF#8 0x7F#8 0xFF#8).payloadFits = true ∧
    Instr.cinDChannelPressure 1#4 0xDF#8 0x7F#8 0xFF#8 ∈ channelPacketOps 1#4 0xDF#8 0x7F#8 0xFF#8 ∧
    (Instr.cinFSingleByte 1#4 0xF8#8 0#8 0#8).payloadFits = true := by decide

theorem witness_LaterStartDiscardsTheOpenMessage :
    2#4 ≠ 1#4 ∧ 0x09#8 ≠ 0xF0#8 ∧ ∃ t, exec (.cin4SysexStartCont 1#4 0xF0#8 0x01#8 0x02#8) (collecting 8) = .next t := ⟨by decide, by decide, _, rfl⟩

theorem witness_TwoDataByteMessageFromAnyState :
    ndata 0x80#8 = some 2 ∧ ndata 0xEF#8 = some 2 ∧ 0x00#8 < 0x80#8 ∧ 0x7F#8 < 0x80#8 ∧
    idle.serial.sx.collecting = false ∧ (collecting 8).serial.sx.collecting = true := by decide

theorem witness_OneDataByteMessageFromAnyState :
    ndata 0xC0#8 = some 1 ∧ ndata 0xDF#8 = some 1 ∧ 0x7F#8 < 0x80#8 := by decide

theorem witness_RunningStatusRepeatsTheHeader :
    ((chan 0x90#8 true).serial.Inv (chan 0x90#8 true).cfg.sysexBufferSize ∧
      ∃ t, exec (decodeSerial 0x11#8) (chan 0x90#8 true) = .next t ∧ t.serial.event = .channelMessage ∧
        ndata t.serial.cm.header = some 2) ∧
    ((chan 0xC5#8 false).serial.Inv (chan 0xC5#8 false).cfg.sysexBufferSize ∧
      ∃ t, exec (decodeSerial 0x07#8) (chan 0xC5#8 false) = .next t ∧ t.serial.event = .channelMessage ∧
        ndata t.serial.cm.header = some 1) := ⟨⟨chan_inv _ _ (.inr (by decide)) (fun _ => by decide), _, rfl, rfl, by decide⟩,
   chan_inv _ _ (.inr (by decide)) (by simp), _, rfl, rfl, by decide⟩

/-- The hypotheses, and every kind of byte that follows the partial message at the ends of its range. -/
theorem witness_PartialMessagesAreDroppedOnlyByStatusBytes :
    (ndata 0x80#8 = some 2 ∧ 0x00#8 < 0x80#8 ∧ 0x7F#8 < 0x80#8) ∧
    (ndata 0x90#8 = some 2 ∧ ndata 0xEF#8 = some 2 ∧ ndata 0xC0#8 = some 1 ∧ ndata 0xDF#8 = some 1) ∧
    (0xF1#8 ≤ 0xF1#8 ∧ 0xF6#8 ≤ 0xF6#8 ∧ 0xF8#8 ≤ 0xF8#8 ∧ 0xF8#8 ≤ 0xFF#8) ∧
    2 ≤ (collecting 2).cfg.sysexBufferSize := by decide

/-- Example E5 of `95_test_vectors.md`; the packets of UV9 and UV3, and a code index 5 that carries
`p1 = 0xF0`, which no hypothesis excludes. -/
theorem witness_NoSysexWithoutAStart :
    (idle.serial.sx.collecting = false ∧ 0xF0#8 ∉ [0xF7#8, 0x10#8, 0xF7#8, 0xF7#8]) ∧
    idle.usb.sx.collecting = false ∧
    ∀ w ∈ [packetWord 0x05#8 0xF7#8 0x00#8 0x00#8, packetWord 0x06#8 0x01#8 0xF7#8 0x00#8,
        packetWord 0x07#8 0x01#8 0x02#8 0xF7#8, packetWord 0x04#8 0x01#8 0x02#8 0x03#8,
        packetWord 0x05#8 0xF0#8 0x00#8 0x00#8, packetWord 0x33#8 0xF2#8 0x01#8 0x02#8],
      loNibble (packetByte w 0) ∈ [0x4#4, 0x6#4, 0x7#4] → packetByte w 1 ≠ 0xF0#8 := by
  refine ⟨by decide, by decide, ?_⟩
  simp only [List.forall_mem_cons, packetByte_zero, packetByte_one]
  exact ⟨by decide, by decide, by decide, by decide, by decide, by decide, by simp⟩

theorem witness_SerialSysexDeliversTheFirstCapBytes :
    (∀ d ∈ [0x01#8, 0x7F#8], d < 0x80#8) ∧
    ({ collecting 2 with input := serialEdges (sysexBytes [0x01#8, 0x7F#8]) } : State).input =
      serialEdges (sysexBytes [0x01#8, 0x7F#8]) ++ [] := by decide

theorem witness_UsbSysexEqualsSerialSysex :
    ∀ d ∈ [0x01#8, 0x02#8, 0x03#8, 0x04#8, 0x05#8, 0x06#8], d < 0x80#8 := by decide

theorem witness_EdgesOfTheTwoInstancesCommute :
    (Input.serial true false 0x00#8).isSerial = true ∧ (Input.usb false true 0#32).isSerial = false := by decide

/-- `95_test_vectors.md` E8 (its packets). -/
theorem test_packetise :
    packetise 2#4 (sysexBytes [0x01#8, 0x02#8, 0x03#8, 0x04#8, 0x05#8, 0x06#8]) =
      [packetWord 0x24#8 0xF0#8 0x01#8 0x02#8, packetWord 0x24#8 0x03#8 0x04#8 0x05#8,
       packetWord 0x26#8 0x06#8 0xF7#8 0x00#8] := by decide

end Sys2Proof.Tests
end

section
/-! SUPPORT. The one parameter and the widths derived from it (`00_scope.md` R4), and what a step does with a
valid symbol. -/

namespace Sys2Proof.Config

theorem one_le_sysexBufferSize (c : Config) : 1 ≤ c.sysexBufferSize :=
  Nat.le_add_left 1 c.spare

theorem sysexBufferSize_lt_two_pow_lenWidth (c : Config) : c.sysexBufferSize < 2 ^ c.lenWidth :=
  Nat.lt_log2_self

theorem two_pow_lenWidth_pred_le_sysexBufferSize (c : Config) : 2 ^ (c.lenWidth - 1) ≤ c.sysexBufferSize :=
  Nat.log2_self_le (Nat.ne_of_gt c.one_le_sysexBufferSize)

theorem one_le_indexWidth (c : Config) : 1 ≤ c.indexWidth := by
  unfold indexWidth
  split
  · exact Nat.le_refl 1
  · exact Nat.le_add_left 1 _

/-- A buffer of one byte has the index 0 alone, and still one index bit. -/
theorem indexWidth_of_sysexBufferSize_eq_one {c : Config} (h : c.sysexBufferSize = 1) : c.indexWidth = 1 :=
  if_pos (Nat.succ.inj h)

/-- `spare` is the greatest index of the buffer, so with two bytes or more `IDXW` is its bit length. -/
theorem indexWidth_of_two_le_sysexBufferSize {c : Config} (h : 2 ≤ c.sysexBufferSize) :
    c.indexWidth = Nat.log2 c.spare + 1 :=
  if_neg (Nat.ne_of_gt (Nat.le_of_succ_le_succ h))

theorem sysexBufferSize_le_two_pow_indexWidth (c : Config) : c.sysexBufferSize ≤ 2 ^ c.indexWidth := by
  rcases Nat.eq_or_lt_of_le c.one_le_sysexBufferSize with h | h
  · rw [← h]
    exact Nat.one_le_two_pow
  · have hspare : c.spare < 2 ^ (Nat.log2 c.spare + 1) := Nat.lt_log2_self
    rw [indexWidth_of_two_le_sysexBufferSize h]
    exact hspare

theorem two_pow_indexWidth_pred_lt_sysexBufferSize {c : Config} (h : 2 ≤ c.sysexBufferSize) :
    2 ^ (c.indexWidth - 1) < c.sysexBufferSize := by
  have hspare : 2 ^ Nat.log2 c.spare ≤ c.spare := Nat.log2_self_le (Nat.ne_of_gt (Nat.le_of_succ_le_succ h))
  rw [indexWidth_of_two_le_sysexBufferSize h]
  exact Nat.lt_succ_of_le hspare

end Sys2Proof.Config

namespace Sys2Proof.Machine

/-- A valid serial byte without reset runs its operation (`10_state.md` R34). -/
theorem takeEdge_serial_valid (b : Byte) (s : State) :
    takeEdge (.serial false true b) s = exec (decodeSerial b) s := rfl

/-- A valid packet without reset runs its operation (R34). -/
theorem takeEdge_usb_valid (w : PacketWord) (s : State) :
    takeEdge (.usb false true w) s = exec (decodePacket w) s := rfl

theorem step_of_serial_valid {s : State} {b : Byte} {rest : List Input}
    (h : s.input = .serial false true b :: rest) :
    step s = exec (decodeSerial b) { s with input := rest } := by
  rw [step_of_cons h, takeEdge_serial_valid]

theorem step_of_usb_valid {s : State} {w : PacketWord} {rest : List Input}
    (h : s.input = .usb false true w :: rest) :
    step s = exec (decodePacket w) { s with input := rest } := by
  rw [step_of_cons h, takeEdge_usb_valid]

end Sys2Proof.Machine
end

section
/-! The statements on the parameter's widths and on the step. -/

namespace Sys2Proof.Machine

/-- Settles O9: `LENW` is the bit length of the capacity and `IDXW`, with two bytes or more, that of the greatest
index; a bit length is bracketed by the powers of two on its two sides. -/
theorem widthsHoldTheirRanges : Obligations.WidthsHoldTheirRanges := fun c =>
  ⟨c.one_le_sysexBufferSize, c.sysexBufferSize_lt_two_pow_lenWidth, c.two_pow_lenWidth_pred_le_sysexBufferSize,
    c.one_le_indexWidth, c.sysexBufferSize_le_two_pow_indexWidth, Config.indexWidth_of_sysexBufferSize_eq_one,
    Config.two_pow_indexWidth_pred_lt_sysexBufferSize⟩

/-- Settles O10: one valid edge of either port runs the operation its decoder gives; the packet's word has the
four bytes as its own. -/
theorem stepRunsTheDecodedSymbol : Obligations.StepRunsTheDecodedSymbol := by
  refine ⟨fun s b rest i hinput hdecode => ?_, fun s p0 p1 p2 p3 rest i hinput hdecode => ?_⟩
  · have hi : decodeSerial b = i := Except.ok.inj hdecode
    rw [step_of_serial_valid hinput, hi]
  · have hi : decodePacketBytes p0 p1 p2 p3 = i := Except.ok.inj hdecode
    rw [step_of_usb_valid hinput, decodePacket_packetWord, hi]

end Sys2Proof.Machine
end

section
/-! SUPPORT. The procedure of an operation, with the operations that run it: `exec` as a function on its own
parser. -/

namespace Sys2Proof.Machine

/-- The six procedures of the Serial Parser (`41_serial_parser.md` R100). -/
theorem exec_serial_procedure {i : Instr} (h : i.agent = .serial) :
    ∃ f, (∀ s, exec i s = s.stepSerial f) ∧
      ((∃ b, i = .data b ∧ f = dataByte b) ∨
        (∃ c x, x ∈ channelStatusOps c ∧ i = x.1 ∧ f = channelStatus x.2) ∨
        (i = .sysexStart ∧ f = sysexStart) ∨ (i ∈ systemCommonOps ∧ f = systemCommon) ∨
        (i = .sysexEnd ∧ f = sysexEnd) ∨ ∃ x, x ∈ realTimeOps ∧ i = x.1 ∧ f = realTime x.2) := by
  rcases serial_groups h with ⟨b, rfl⟩ | ⟨c, x, hx, rfl⟩ | rfl | hi | rfl | ⟨x, hx, rfl⟩
  · exact ⟨_, fun _ => rfl, .inl ⟨b, rfl, rfl⟩⟩
  · exact ⟨_, exec_channelStatus hx, .inr (.inl ⟨c, x, hx, rfl, rfl⟩)⟩
  · exact ⟨_, fun _ => rfl, .inr (.inr (.inl ⟨rfl, rfl⟩))⟩
  · exact ⟨_, exec_systemCommon hi, .inr (.inr (.inr (.inl ⟨hi, rfl⟩)))⟩
  · exact ⟨_, fun _ => rfl, .inr (.inr (.inr (.inr (.inl ⟨rfl, rfl⟩))))⟩
  · exact ⟨_, exec_realTime hx, .inr (.inr (.inr (.inr (.inr ⟨x, hx, rfl, rfl⟩))))⟩

/-- The procedures of the USB Packet Parser (`42_usb_parser.md` R140). -/
theorem exec_usb_procedure {i : Instr} (h : i.agent = .usb) :
    ∃ f, (∀ s, exec i s = s.stepUsb f) ∧ ∃ cn p1 p2 p3,
      ((i ∈ channelPacketOps cn p1 p2 p3 ∧ f = channelPacket cn p1 p2 p3) ∨
        (i ∈ reservedOps cn p1 p2 p3 ∧ f = ignoredPacket) ∨
        (i = .cin4SysexStartCont cn p1 p2 p3 ∧ f = sysexStartCont cn p1 p2 p3) ∨
        (i = .cin5SysexEnd1 cn p1 p2 p3 ∧ f = sysexEndOne cn p1) ∨
        (i = .cin6SysexEnd2 cn p1 p2 p3 ∧ f = sysexEndWith cn p1 [p2]) ∨
        (i = .cin7SysexEnd3 cn p1 p2 p3 ∧ f = sysexEndWith cn p1 [p2, p3]) ∨
        (i = .cinFSingleByte cn p1 p2 p3 ∧ f = singleByte cn p1)) := by
  obtain ⟨cn, p1, p2, p3, hi | hi | rfl | rfl | rfl | rfl | rfl⟩ := usb_groups h
  · exact ⟨_, exec_channelPacket hi, cn, p1, p2, p3, .inl ⟨hi, rfl⟩⟩
  · exact ⟨_, exec_reserved hi, cn, p1, p2, p3, .inr (.inl ⟨hi, rfl⟩)⟩
  · exact ⟨_, fun _ => rfl, cn, p1, p2, p3, .inr (.inr (.inl ⟨rfl, rfl⟩))⟩
  · exact ⟨_, fun _ => rfl, cn, p1, p2, p3, .inr (.inr (.inr (.inl ⟨rfl, rfl⟩)))⟩
  · exact ⟨_, fun _ => rfl, cn, p1, p2, p3, .inr (.inr (.inr (.inr (.inl ⟨rfl, rfl⟩))))⟩
  · exact ⟨_, fun _ => rfl, cn, p1, p2, p3, .inr (.inr (.inr (.inr (.inr (.inl ⟨rfl, rfl⟩)))))⟩
  · exact ⟨_, fun _ => rfl, cn, p1, p2, p3, .inr (.inr (.inr (.inr (.inr (.inr ⟨rfl, rfl⟩)))))⟩

end Sys2Proof.Machine
end

section
/-! SUPPORT. The invariants of `10_state.md` R25 and R26: what each procedure of either parser needs to keep
them. -/

namespace Sys2Proof.Machine

/-! ### The accumulator -/

namespace SxAccumulator

variable {cap : Nat} (a : SxAccumulator) {w : Byte}

/-- A byte stored after a push was stored before it, or is the pushed one in the last place. -/
theorem stored_push {i : Nat} {v : Byte} (hi : i < (a.push cap w).len)
    (hv : (a.push cap w).buf.read i = some v) :
    (i < a.len ∧ a.buf.read i = some v) ∨ (i + 1 = (a.push cap w).len ∧ v = w) := by
  rw [push_read] at hv
  rw [push_len] at hi ⊢
  split at hv
  next hlast =>
    obtain ⟨hlen, hroom⟩ := hlast
    exact .inr ⟨by rw [if_pos hroom, hlen], (Option.some.inj hv).symm⟩
  next hold =>
    refine .inl ⟨?_, hv⟩
    split at hi <;> omega

end SxAccumulator

/-! ### The Serial Parser -/

/-- The procedure keeps the serial invariant, started as `State.stepSerial` starts it: with no event. -/
def SerialParser.KeptBy (f : Nat → SerialParser → SerialParser) : Prop :=
  ∀ cap p, 0 < cap → p.event = .noMessage → p.Inv cap → (f cap p).Inv cap

/-- The same for a procedure of the USB Packet Parser. -/
def UsbParser.KeptBy (f : Nat → UsbParser → UsbParser) : Prop :=
  ∀ cap p, 0 < cap → p.event = .noMessage → p.Inv cap → (f cap p).Inv cap

namespace SerialParser

variable {cap : Nat} {p : SerialParser} {b : Byte}

/-- While a message is open, every stored byte after the first is a data byte. -/
theorem Inv.dataBytes_of_open (h : p.Inv cap) (ho : p.sx.collecting = true) {i : Nat} {v : Byte} (h1 : 1 ≤ i)
    (hi : i < p.sx.len) (hv : p.sx.buf.read i = some v) : v < 0x80#8 := by
  rcases h.dataBytes i v h1 hi hv with hlt | ⟨hclosed, -⟩
  · exact hlt
  · exact absurd (ho.symm.trans hclosed) (by decide)

theorem Inv.clearEvent (h : p.Inv cap) : (p.emit .noMessage).Inv cap :=
  { h with
    sysex := by simp
    channel := by simp
    realTime := by simp }

theorem Inv.atReset (n : Nat) : (SerialParser.atReset n).Inv cap where
  sx := .atReset
  sysex := by simp
  dataBytes := by simp
  cable := rfl
  running := .inl rfl
  exclusive := by simp
  held := by simp
  channel := by simp
  realTime := by simp

/-- Ending an open message: all its bytes are data bytes, so the terminator can only be the last one. -/
theorem Inv.sysexEnd (h : p.Inv cap) : (sysexEnd cap p).Inv cap := by
  unfold Machine.sysexEnd
  split
  case isFalse => exact h
  case isTrue ho =>
    exact { h with
      sx := h.sx.finish
      sysex := fun _ => h.sx.finish_delivered ho
      dataBytes := fun i v h1 hi hv => by
        rcases p.sx.stored_push hi hv with ⟨hi, hv⟩ | ⟨hlast, rfl⟩
        · exact .inl (h.dataBytes_of_open ho h1 hi hv)
        · exact .inr ⟨rfl, hlast, rfl⟩
      cable := (p.sx.finish_cable).trans h.cable
      exclusive := by simp
      held := fun hcnt => by
        obtain ⟨hn, -, h1⟩ := h.held hcnt
        exact ⟨hn, rfl, h1⟩
      channel := by simp
      realTime := by simp }

/-- With no message open, any status value may become the running status, and `cnt` is cleared with it. -/
theorem Inv.setRunStatus (h : p.Inv cap) (hclosed : p.sx.collecting = false)
    (hb : b = 0x00#8 ∨ (0x80#8 ≤ b ∧ b ≤ 0xEF#8)) :
    ({ p with runStatus := b, cnt := false } : SerialParser).Inv cap :=
  { h with
    running := hb
    exclusive := by simp [hclosed]
    held := by simp }

theorem Inv.emitChannel (h : p.Inv cap) (hn : (ndata p.runStatus).isSome = true) (h1 : p.cm.data1 < 0x80#8)
    (h2 : ndata p.runStatus = some 2 → p.cm.data2 < 0x80#8) : (emitChannel p).Inv cap :=
  { h with
    sysex := by simp [Machine.emitChannel]
    channel := fun _ => ⟨hn, h1, h2, rfl⟩
    realTime := by simp [Machine.emitChannel] }

end SerialParser

/-- `SYSEX_END` is the part `CHANNEL_STATUS` and `SYSTEM_COMMON` begin with (`41_serial_parser.md` R101, R112). -/
theorem channelStatus_eq (b : Byte) (cap : Nat) (p : SerialParser) :
    channelStatus b cap p = { sysexEnd cap p with runStatus := b, cnt := false } := rfl

theorem systemCommon_eq : systemCommon = channelStatus 0x00#8 := rfl

@[simp] theorem sysexEnd_collecting (cap : Nat) (p : SerialParser) : (sysexEnd cap p).sx.collecting = false := by
  unfold sysexEnd
  split
  · rfl
  · simp_all

namespace SerialParser

variable {cap : Nat} {p : SerialParser} {b : Byte}

/-- With no event, `cm_*` and `cnt` may be written, so long as a byte that `cnt` says is held is a data byte of a
two-data-byte message. -/
theorem Inv.writeChannel (h : p.Inv cap) (hev : p.event = .noMessage) {m : ChannelMessage} {held : Bool}
    (hheld : held = true → ndata p.runStatus = some 2 ∧ p.sx.collecting = false ∧ m.data1 < 0x80#8) :
    ({ p with cm := m, cnt := held } : SerialParser).Inv cap :=
  { h with
    held := hheld
    channel := by simp [hev] }

theorem KeptBy.sysexEnd : KeptBy sysexEnd := fun _ _ _ _ h => h.sysexEnd

theorem KeptBy.channelStatus (hb : b = 0x00#8 ∨ (0x80#8 ≤ b ∧ b ≤ 0xEF#8)) : KeptBy (channelStatus b) :=
  fun cap p _ _ h => by
    rw [channelStatus_eq]
    exact h.sysexEnd.setRunStatus (sysexEnd_collecting cap p) hb

theorem KeptBy.systemCommon : KeptBy systemCommon :=
  systemCommon_eq ▸ KeptBy.channelStatus (.inl rfl)

/-- A start leaves the byte `0xF0` alone in the buffer, so there is no byte after the first. -/
theorem KeptBy.sysexStart : KeptBy sysexStart := fun cap p hcap hev h =>
  { h with
    sx := h.sx.start hcap
    sysex := by simp [Machine.sysexStart, hev]
    dataBytes := fun i v h1 hi => by
      have hlen : i < 1 := by simpa [Machine.sysexStart, p.sx.start_eq 0#4 hcap] using hi
      omega
    cable := p.sx.start_cable 0#4
    running := .inl rfl
    exclusive := fun _ => rfl
    held := by simp [Machine.sysexStart] }

theorem KeptBy.realTime (hb : 0xF8#8 ≤ b) : KeptBy (realTime b) := fun _ _ _ _ h =>
  { h with
    sysex := by simp [Machine.realTime]
    channel := by simp [Machine.realTime]
    realTime := fun _ => ⟨hb, rfl⟩ }

/-- A data byte pushed to the open message. -/
theorem Inv.pushData (h : p.Inv cap) (hev : p.event = .noMessage) (ho : p.sx.collecting = true) (hb : b < 0x80#8) :
    ({ p with sx := p.sx.push cap b } : SerialParser).Inv cap :=
  { h with
    sx := h.sx.push
    sysex := by simp [hev]
    dataBytes := fun i v h1 hi hv => by
      rcases p.sx.stored_push hi hv with ⟨hi, hv⟩ | ⟨-, rfl⟩
      · exact .inl (h.dataBytes_of_open ho h1 hi hv)
      · exact .inl hb
    cable := (p.sx.push_cable b).trans h.cable
    exclusive := fun _ => h.exclusive ho
    held := fun hcnt => by
      obtain ⟨-, hclosed, -⟩ := h.held hcnt
      exact absurd (ho.symm.trans hclosed) (by decide) }

/-- Every channel status byte has a data byte count (`30_encoding.md` R67). -/
theorem ndata_isSome_of_status (h1 : 0x80#8 ≤ b) (h2 : b ≤ 0xEF#8) : (ndata b).isSome = true := by
  revert b; decide

theorem Inv.ndata_isSome (h : p.Inv cap) (hr : p.runStatus ≠ 0x00#8) : (ndata p.runStatus).isSome = true := by
  obtain ⟨h1, h2⟩ := h.running.resolve_left hr
  exact ndata_isSome_of_status h1 h2

/-- The five arms of `DATA` (`41_serial_parser.md` R109). -/
theorem KeptBy.dataByte (hb : b < 0x80#8) : KeptBy (dataByte b) := by
  intro cap p _ hev h
  unfold Machine.dataByte
  split
  case isTrue ho => exact h.pushData hev ho hb
  case isFalse ho =>
    have hclosed : p.sx.collecting = false := by simpa using ho
    split
    case isTrue => exact h
    case isFalse hr =>
      have hn := h.ndata_isSome hr
      split
      case isTrue h2 =>
        split
        case isTrue hcnt =>
          obtain ⟨-, -, h1⟩ := h.held hcnt
          exact (h.writeChannel hev (by simp)).emitChannel hn h1 (fun _ => hb)
        case isFalse => exact h.writeChannel hev (fun _ => ⟨h2, hclosed, hb⟩)
      case isFalse h2 =>
        have hcnt : p.cnt = true → ndata p.runStatus = some 2 := fun hcnt => (h.held hcnt).1
        exact (h.writeChannel hev fun hc => absurd (hcnt hc) h2).emitChannel hn hb (fun hc => absurd hc h2)

end SerialParser

/-! ### The USB Packet Parser -/

namespace UsbParser

variable {cap : Nat} {p : UsbParser} {cn : Nibble} {p1 p2 p3 : Byte}

theorem Inv.clearEvent (h : p.Inv cap) : (p.emit .noMessage).Inv cap := ⟨h.sx, by simp⟩

theorem Inv.atReset (n : Nat) : (UsbParser.atReset n).Inv cap := ⟨.atReset, by simp⟩

theorem KeptBy.ignoredPacket : KeptBy ignoredPacket := fun _ _ _ _ h => h

theorem KeptBy.channelPacket : KeptBy (channelPacket cn p1 p2 p3) := fun _ _ _ _ h =>
  ⟨h.sx, by simp [Machine.channelPacket]⟩

theorem KeptBy.singleByte : KeptBy (singleByte cn p1) := fun _ _ _ _ h => ⟨h.sx, by simp [Machine.singleByte]⟩

theorem KeptBy.sysexStartCont : KeptBy (sysexStartCont cn p1 p2 p3) := by
  intro cap p hcap hev h
  unfold Machine.sysexStartCont
  split
  · exact ⟨(h.sx.start hcap).pushAll, by simp [hev]⟩
  · split
    · exact ⟨h.sx.pushAll, by simp [hev]⟩
    · exact h

theorem KeptBy.sysexEndOne : KeptBy (sysexEndOne cn p1) := by
  intro cap p _ _ h
  unfold Machine.sysexEndOne
  split
  · split
    case isTrue hopen => exact ⟨h.sx.finish, fun _ => h.sx.finish_delivered (openOn_iff.mp hopen).1⟩
    case isFalse => exact h
  · exact ⟨h.sx, by simp⟩

/-- Both emitting arms close a message that is open: the one the packet starts, or the cable's own. -/
theorem KeptBy.sysexEndWith {rest : List Byte} : KeptBy (sysexEndWith cn p1 rest) := by
  intro cap p hcap _ h
  unfold Machine.sysexEndWith
  split
  · have hsx : ((p.sx.start cap cn).pushAll cap rest).Inv cap := (h.sx.start hcap).pushAll
    exact ⟨hsx.close, fun _ => hsx.close_delivered (by simp)⟩
  · split
    case isTrue hopen =>
      have hsx : (p.sx.pushAll cap (p1 :: rest)).Inv cap := h.sx.pushAll
      exact ⟨hsx.close, fun _ => hsx.close_delivered (by simpa using (openOn_iff.mp hopen).1)⟩
    case isFalse => exact h

end UsbParser

/-! ### The whole state -/

namespace State

variable {s t : State}

theorem Inv.withInput (h : s.Inv) (input : List Input) : ({ s with input := input } : State).Inv :=
  ⟨h.serial, h.usb⟩

theorem Inv.resetSerial (h : s.Inv) : s.resetSerial.Inv := ⟨.atReset _, h.usb⟩

theorem Inv.resetUsb (h : s.Inv) : s.resetUsb.Inv := ⟨h.serial, .atReset _⟩

theorem Inv.stepSerial {f : Nat → SerialParser → SerialParser} (h : s.Inv) (hf : SerialParser.KeptBy f)
    (he : s.stepSerial f = .next t) : t.Inv := by
  cases he
  exact ⟨hf _ _ s.cfg.one_le_sysexBufferSize rfl h.serial.clearEvent, h.usb⟩

theorem Inv.stepUsb {f : Nat → UsbParser → UsbParser} (h : s.Inv) (hf : UsbParser.KeptBy f)
    (he : s.stepUsb f = .next t) : t.Inv := by
  cases he
  exact ⟨h.serial, hf _ _ s.cfg.one_le_sysexBufferSize rfl h.usb.clearEvent⟩

/-- A serial byte of any of the six classes. -/
theorem Inv.exec_byte (h : s.Inv) {b : Byte} (he : exec (decodeSerial b) s = .next t) : t.Inv := by
  rcases exec_serial_class b s with
    ⟨hb, hx⟩ | ⟨h1, h2, -, hx⟩ | ⟨-, hx⟩ | ⟨-, -, hx⟩ | ⟨-, hx⟩ | ⟨hb, hx⟩ <;> rw [hx] at he
  · exact h.stepSerial (.dataByte hb) he
  · exact h.stepSerial (.channelStatus (.inr ⟨h1, h2⟩)) he
  · exact h.stepSerial .sysexStart he
  · exact h.stepSerial .systemCommon he
  · exact h.stepSerial .sysexEnd he
  · exact h.stepSerial (.realTime hb) he

/-- An operation of the USB Packet Parser: its payload needs no premise. -/
theorem Inv.exec_usb (h : s.Inv) {i : Instr} (hi : i.agent = .usb) (he : exec i s = .next t) : t.Inv := by
  obtain ⟨f, hf, cn, p1, p2, p3, hproc⟩ := exec_usb_procedure hi
  rw [hf] at he
  refine h.stepUsb ?_ he
  rcases hproc with ⟨-, rfl⟩ | ⟨-, rfl⟩ | ⟨-, rfl⟩ | ⟨-, rfl⟩ | ⟨-, rfl⟩ | ⟨-, rfl⟩ | ⟨-, rfl⟩
  · exact .channelPacket
  · exact .ignoredPacket
  · exact .sysexStartCont
  · exact .sysexEndOne
  · exact .sysexEndWith
  · exact .sysexEndWith
  · exact .singleByte

theorem Inv.takeEdge (h : s.Inv) {e : Input} (he : takeEdge e s = .next t) : t.Inv := by
  rcases takeEdge_cases e s with ⟨v, b, -, hx⟩ | ⟨v, w, -, hx⟩ | ⟨b, -, hx⟩ | ⟨w, -, hx⟩ | hx <;>
    rw [hx] at he
  · cases he; exact h.resetSerial
  · cases he; exact h.resetUsb
  · exact h.exec_byte he
  · exact h.exec_usb (decodePacket_agent w) he
  · cases he; exact h

theorem Inv.step (h : s.Inv) (he : step s = .next t) : t.Inv := by
  cases hinput : s.input with
  | nil =>
    rw [step_of_nil hinput] at he
    cases he; exact h
  | cons e rest =>
    rw [step_of_cons hinput] at he
    exact (h.withInput rest).takeEdge he

theorem Inv.reset : State.reset.Inv := ⟨.atReset 0, .atReset 0⟩

end State

/-- Settles O43: each kind of step keeps the invariant (`State.Inv.step`). -/
theorem everyStepKeepsTheInvariants : Obligations.EveryStepKeepsTheInvariants := fun _ _ h he => h.step he

/-- Settles O42: both accumulators are empty and nothing is emitted after reset. -/
theorem resetMeetsTheInvariants : Obligations.ResetMeetsTheInvariants := State.Inv.reset

end Sys2Proof.Machine
end

section
/-! The two instances: an operation stays in its own, and any interleaving of edges is the two streams run apart
(`10_state.md` R10, `20_memory.md` R55). -/

namespace Sys2Proof.Machine

/-- `u` is what the Serial Parser and its edges are in `s`, and `v` what the USB Packet Parser and its edges are:
the simulation relation of the interleaved run and the two separate ones. -/
structure Separates (s u v : State) : Prop where
  serialInput : u.input = s.input.filter Input.isSerial
  serialCfg : u.cfg = s.cfg
  serial : u.serial = s.serial
  usbInput : v.input = s.input.filter (fun e => !e.isSerial)
  usbCfg : v.cfg = s.cfg
  usb : v.usb = s.usb

namespace Separates

variable {s u v : State} {e : Input} {rest : List Input}

/-- An edge of the Serial Parser is a step of the interleaved run and of the serial one. -/
theorem step_serial (h : Separates s u v) (hs : s.input = e :: rest) (he : e.isSerial = true) :
    ∃ s' u', step s = .next s' ∧ step u = .next u' ∧ s'.input = rest ∧ Separates s' u' v := by
  obtain ⟨f, hf⟩ := takeEdge_serial he
  have hu : u.input = e :: rest.filter Input.isSerial := by simp [h.serialInput, hs, he]
  refine ⟨_, _, (step_of_cons hs).trans (hf _), (step_of_cons hu).trans (hf _), rfl, ?_⟩
  exact { h with
    serialInput := rfl
    serial := by simp only [h.serialCfg, h.serial]
    usbInput := by simp [h.usbInput, hs, he] }

/-- An edge of the USB Packet Parser is a step of the interleaved run and of the USB one. -/
theorem step_usb (h : Separates s u v) (hs : s.input = e :: rest) (he : e.isSerial = false) :
    ∃ s' v', step s = .next s' ∧ step v = .next v' ∧ s'.input = rest ∧ Separates s' u v' := by
  obtain ⟨f, hf⟩ := takeEdge_usb he
  have hv : v.input = e :: rest.filter (fun e => !e.isSerial) := by simp [h.usbInput, hs, he]
  refine ⟨_, _, (step_of_cons hs).trans (hf _), (step_of_cons hv).trans (hf _), rfl, ?_⟩
  exact { h with
    serialInput := by simp [h.serialInput, hs, he]
    usbInput := rfl
    usb := by simp only [h.usbCfg, h.usb] }

/-- The three runs over their whole inputs complete and end separated. -/
theorem run_input {input : List Input} (h : Separates s u v) (hs : s.input = input) :
    ∃ t u' v', Host.Core.run Sys2Proof.core input.length s = .next t ∧
      Host.Core.run Sys2Proof.core (input.filter Input.isSerial).length u = .next u' ∧
      Host.Core.run Sys2Proof.core (input.filter (fun e => !e.isSerial)).length v = .next v' ∧
      Separates t u' v' := by
  induction input generalizing s u v with
  | nil => exact ⟨s, u, v, rfl, rfl, rfl, h⟩
  | cons e rest ih =>
    cases he : e.isSerial with
    | true =>
      obtain ⟨s', u', hstep, hstepU, hrest, h'⟩ := h.step_serial hs he
      simpa [he, run_succ hstep, run_succ hstepU] using ih h' hrest
    | false =>
      obtain ⟨s', v', hstep, hstepV, hrest, h'⟩ := h.step_usb hs he
      simpa [he, run_succ hstep, run_succ hstepV] using ih h' hrest

end Separates

/-- Settles O60: the interleaved run simulates the two separate ones edge by edge (`Separates.run_input`). -/
theorem instancesDoNotInterfere : Obligations.InstancesDoNotInterfere := by
  intro s
  have h : Separates s { s with input := s.input.filter Input.isSerial }
      { s with input := s.input.filter (fun e => !e.isSerial) } := ⟨rfl, rfl, rfl, rfl, rfl, rfl⟩
  obtain ⟨t, u, v, hs, hu, hv, hend⟩ := h.run_input rfl
  exact ⟨t, u, v, hs, hu, hv, hend.serial.symm, hend.usb.symm⟩

/-- Settles O14: an operation of a parser is a step of that parser, from every state. -/
theorem operationsStayInTheirInstance : Obligations.OperationsStayInTheirInstance := by
  intro i s
  cases hi : i.agent with
  | serial =>
    obtain ⟨f, hf⟩ := exec_serial hi
    exact ⟨_, hf s, rfl, rfl, fun _ => rfl, nofun⟩
  | usb =>
    obtain ⟨f, hf⟩ := exec_usb hi
    exact ⟨_, hf s, rfl, rfl, nofun, fun _ => rfl⟩

/-- Settles O13: an edge without reset and without a valid symbol leaves the state as it is without the edge. -/
theorem noSymbolChangesNothing : Obligations.NoSymbolChangesNothing := fun _ _ =>
  ⟨fun _ h => step_of_cons h, fun _ h => step_of_cons h, step_of_nil⟩

end Sys2Proof.Machine
end

section
/-! What a single operation may write: `run_status`, `sx_len` and `sx_cable` (`10_state.md` R14, R22, R23, R25), and
the messages well-formed packets deliver (R11, R12). -/

namespace Sys2Proof.Machine

/-! ### Running status -/

section RunStatus
variable (b : Byte) (cap : Nat) (p : SerialParser)

@[simp] theorem dataByte_runStatus : (dataByte b cap p).runStatus = p.runStatus := (dataByte_keeps b cap p).1

@[simp] theorem channelStatus_runStatus : (channelStatus b cap p).runStatus = b := rfl

@[simp] theorem systemCommon_runStatus : (systemCommon cap p).runStatus = 0x00#8 := rfl

@[simp] theorem sysexStart_runStatus : (sysexStart cap p).runStatus = 0x00#8 := rfl

@[simp] theorem sysexEnd_runStatus : (sysexEnd cap p).runStatus = p.runStatus := by
  unfold sysexEnd; split <;> rfl

@[simp] theorem realTime_runStatus : (realTime b cap p).runStatus = p.runStatus := rfl
end RunStatus

/-- Settles O45: of the six groups of serial operations, `DATA`, `SYSEX_END` and the real-time operations keep
`run_status`; a USB operation keeps the whole Serial Parser. -/
theorem onlyStatusBytesWriteRunningStatus : Obligations.OnlyStatusBytesWriteRunningStatus := by
  intro s t i he hne
  cases hi : i.agent with
  | usb =>
    obtain ⟨f, hf⟩ := exec_usb hi
    obtain ⟨-, hserial, -, -⟩ := State.stepUsb_eq_next ((hf s).symm.trans he)
    exact absurd (congrArg SerialParser.runStatus hserial) hne
  | serial =>
    obtain ⟨f, hf, hproc⟩ := exec_serial_procedure hi
    obtain ⟨-, -, -, ht⟩ := State.stepSerial_eq_next ((hf s).symm.trans he)
    rcases hproc with ⟨b, -, rfl⟩ | ⟨c, x, hx, hi, rfl⟩ | ⟨hi, rfl⟩ | ⟨hi, rfl⟩ | ⟨-, rfl⟩ | ⟨x, -, -, rfl⟩
    · exact absurd (by simp [ht]) hne
    · exact .inl ⟨c, x, hx, hi, by simp [ht]⟩
    · exact .inr ⟨.inl hi, by simp [ht]⟩
    · exact .inr ⟨.inr hi, by simp [ht]⟩
    · exact absurd (by simp [ht]) hne
    · exact absurd (by simp [ht]) hne

/-! ### Length and cable tag -/

/-- `c` is not shorter than `a` and has its cable tag. -/
def SxAccumulator.Extends (a c : SxAccumulator) : Prop := a.len ≤ c.len ∧ c.cable = a.cable

namespace SxAccumulator

variable {a c : SxAccumulator} (cap : Nat)

theorem Extends.refl (a : SxAccumulator) : a.Extends a := ⟨Nat.le_refl _, rfl⟩

theorem extends_push (v : Byte) : a.Extends (a.push cap v) := ⟨a.len_le_push_len v, a.push_cable v⟩

theorem extends_pushAll (vs : List Byte) : a.Extends (a.pushAll cap vs) :=
  ⟨len_le_pushAll_len cap vs a, a.pushAll_cable vs⟩

theorem Extends.close (h : a.Extends c) : a.Extends c.close := h

theorem extends_finish : a.Extends (a.finish cap) := (extends_push cap 0xF7#8).close

/-- An accumulator that extends another is neither shorter nor of another cable. -/
theorem Extends.not_shortened (h : a.Extends c) : ¬ (c.len < a.len ∨ c.cable ≠ a.cable) := by
  obtain ⟨hlen, hcable⟩ := h
  rintro (hlt | hne)
  · omega
  · exact hne hcable

end SxAccumulator

section Extends
variable (b : Byte) (cap : Nat) (p : SerialParser)

theorem sysexEnd_extends : p.sx.Extends (sysexEnd cap p).sx := by
  unfold sysexEnd
  split
  · exact SxAccumulator.extends_finish cap
  · exact .refl _

theorem channelStatus_extends : p.sx.Extends (channelStatus b cap p).sx := sysexEnd_extends cap p

theorem systemCommon_extends : p.sx.Extends (systemCommon cap p).sx := sysexEnd_extends cap p

theorem realTime_extends : p.sx.Extends (realTime b cap p).sx := .refl _

/-- `DATA` pushes its byte to the open message, or leaves the accumulator alone. -/
theorem dataByte_sx : (dataByte b cap p).sx = if p.sx.collecting then p.sx.push cap b else p.sx := by
  unfold dataByte
  split
  · rfl
  · split
    · rfl
    · split
      · split <;> rfl
      · rfl

theorem dataByte_extends : p.sx.Extends (dataByte b cap p).sx := by
  rw [dataByte_sx]
  split
  · exact SxAccumulator.extends_push cap b
  · exact .refl _
end Extends

section UsbExtends
variable {cn : Nibble} {p1 p2 p3 : Byte} (cap : Nat) (p : UsbParser)

theorem ignoredPacket_extends : p.sx.Extends (ignoredPacket cap p).sx := .refl _

theorem channelPacket_extends : p.sx.Extends (channelPacket cn p1 p2 p3 cap p).sx := .refl _

theorem singleByte_extends : p.sx.Extends (singleByte cn p1 cap p).sx := .refl _

theorem sysexStartCont_extends (h : p1 ≠ 0xF0#8) : p.sx.Extends (sysexStartCont cn p1 p2 p3 cap p).sx := by
  rw [sysexStartCont, if_neg h]
  split
  · exact SxAccumulator.extends_pushAll cap _
  · exact .refl _

theorem sysexEndOne_extends : p.sx.Extends (sysexEndOne cn p1 cap p).sx := by
  unfold sysexEndOne
  split
  · split
    · exact SxAccumulator.extends_finish cap
    · exact .refl _
  · exact .refl _

theorem sysexEndWith_extends {rest : List Byte} (h : p1 ≠ 0xF0#8) :
    p.sx.Extends (sysexEndWith cn p1 rest cap p).sx := by
  rw [sysexEndWith, if_neg h]
  split
  · exact (SxAccumulator.extends_pushAll cap _).close
  · exact .refl _
end UsbExtends

section ExecExtends
variable {s t : State} {i : Instr}

/-- Every operation but a start keeps the Serial Parser's message, perhaps longer. -/
theorem serial_extends_of_exec (he : exec i s = .next t) (hne : i ≠ .sysexStart) :
    s.serial.sx.Extends t.serial.sx := by
  cases hi : i.agent with
  | usb =>
    obtain ⟨f, hf⟩ := exec_usb hi
    obtain ⟨-, hserial, -, -⟩ := State.stepUsb_eq_next ((hf s).symm.trans he)
    rw [hserial]
    exact .refl _
  | serial =>
    obtain ⟨f, hf, hproc⟩ := exec_serial_procedure hi
    obtain ⟨-, -, -, ht⟩ := State.stepSerial_eq_next ((hf s).symm.trans he)
    rw [ht, ← SerialParser.emit_sx .noMessage s.serial]
    rcases hproc with ⟨b, -, rfl⟩ | ⟨c, x, -, -, rfl⟩ | ⟨hi, -⟩ | ⟨-, rfl⟩ | ⟨-, rfl⟩ | ⟨x, -, -, rfl⟩
    · exact dataByte_extends ..
    · exact channelStatus_extends ..
    · exact absurd hi hne
    · exact systemCommon_extends ..
    · exact sysexEnd_extends ..
    · exact realTime_extends ..

/-- The operation is a packet that opens a message: code index 4, 6 or 7 with `p1 = 0xF0` (`42_usb_parser.md` R153,
R155, R156). -/
def OpensUsbMessage (i : Instr) : Prop :=
  ∃ cn p2 p3, i = .cin4SysexStartCont cn 0xF0#8 p2 p3 ∨ i = .cin6SysexEnd2 cn 0xF0#8 p2 p3 ∨
    i = .cin7SysexEnd3 cn 0xF0#8 p2 p3

/-- Every operation but a packet that opens a message keeps the USB Packet Parser's message, perhaps longer. -/
theorem usb_extends_of_exec (he : exec i s = .next t) (hne : ¬ OpensUsbMessage i) :
    s.usb.sx.Extends t.usb.sx := by
  cases hi : i.agent with
  | serial =>
    obtain ⟨f, hf⟩ := exec_serial hi
    obtain ⟨-, husb, -, -⟩ := State.stepSerial_eq_next ((hf s).symm.trans he)
    rw [husb]
    exact .refl _
  | usb =>
    obtain ⟨f, hf, cn, p1, p2, p3, hproc⟩ := exec_usb_procedure hi
    obtain ⟨-, -, -, ht⟩ := State.stepUsb_eq_next ((hf s).symm.trans he)
    rw [ht, ← UsbParser.emit_sx .noMessage s.usb]
    rcases hproc with ⟨-, rfl⟩ | ⟨-, rfl⟩ | ⟨rfl, rfl⟩ | ⟨-, rfl⟩ | ⟨rfl, rfl⟩ | ⟨rfl, rfl⟩ | ⟨-, rfl⟩
    · exact channelPacket_extends ..
    · exact ignoredPacket_extends ..
    · exact sysexStartCont_extends _ _ (by rintro rfl; exact hne ⟨cn, p2, p3, .inl rfl⟩)
    · exact sysexEndOne_extends ..
    · exact sysexEndWith_extends _ _ (by rintro rfl; exact hne ⟨cn, p2, p3, .inr (.inl rfl)⟩)
    · exact sysexEndWith_extends _ _ (by rintro rfl; exact hne ⟨cn, p2, p3, .inr (.inr rfl)⟩)
    · exact singleByte_extends ..
end ExecExtends

/-- Settles O46: an operation that is no start extends the accumulator, so it neither shortens the message nor
changes its cable tag. -/
theorem onlyAStartShortensAMessage : Obligations.OnlyAStartShortensAMessage := by
  intro s t i he
  refine ⟨fun h => ?_, fun h => ?_⟩
  · by_contra hne
    exact (serial_extends_of_exec he hne).not_shortened h
  · by_contra hne
    exact (usb_extends_of_exec he hne).not_shortened h

/-! ### Messages of well-formed packets -/

section PayloadFits
variable {cn : Nibble} {p1 p2 p3 : Byte}

theorem channelPayloadFits_iff {t : Nibble} {twoData : Bool} : channelPayloadFits t twoData p1 p2 p3 = true ↔
    headerType p1 = t ∧ p2 < 0x80#8 ∧ (twoData = true → p3 < 0x80#8) := by
  cases twoData <;> simp [channelPayloadFits, headerType, hiNibble, and_assoc]

/-- A payload that fits the code index `t`, when every header of type `t` has one data byte, or two. -/
theorem payload_of_fits {t : Nibble} {twoData : Bool}
    (hn : ∀ h, headerType h = t → ndata h = some (if twoData then 2 else 1))
    (h : channelPayloadFits t twoData p1 p2 p3 = true) :
    p2 < 0x80#8 ∧ ((ndata p1 = some 2 ∧ p3 < 0x80#8) ∨ ndata p1 = some 1) := by
  obtain ⟨ht, h2, h3⟩ := channelPayloadFits_iff.mp h
  refine ⟨h2, ?_⟩
  cases twoData with
  | true => exact .inl ⟨hn p1 ht, h3 rfl⟩
  | false => exact .inr (hn p1 ht)

/-- The header of a channel packet whose payload fits has the data bytes of its code index, all below `0x80`. -/
theorem channelPacketOps_payload {i : Instr} (hi : i ∈ channelPacketOps cn p1 p2 p3) (h : i.payloadFits = true) :
    p2 < 0x80#8 ∧ ((ndata p1 = some 2 ∧ p3 < 0x80#8) ∨ ndata p1 = some 1) := by
  simp only [channelPacketOps, List.mem_cons, List.not_mem_nil, or_false] at hi
  rcases hi with rfl | rfl | rfl | rfl | rfl | rfl | rfl <;>
    exact payload_of_fits (fun h ht => by simp [ndata, ht]) h

/-- What a channel packet delivers. -/
theorem channelPacket_delivered (cap : Nat) (p : UsbParser) :
    (channelPacket cn p1 p2 p3 cap p).delivered = channelDelivery ⟨p1, p2, p3, cn⟩ := rfl

end PayloadFits

/-- Settles O49: a payload that fits its code index has the data byte count of its header's type, which is what
`channelDelivery` looks at. -/
theorem wellFormedPacketsDeliverWellFormedMessages : Obligations.WellFormedPacketsDeliverWellFormedMessages := by
  refine fun s cn p1 p2 p3 i hfits => ⟨fun hi => ?_, ?_⟩
  · obtain ⟨h2, hn⟩ := channelPacketOps_payload hi hfits
    refine ⟨_, exec_channelPacket hi s, h2, ?_⟩
    rcases hn with ⟨hn, h3⟩ | hn
    · exact .inl ⟨hn, h3, by simp [channelPacket_delivered, channelDelivery, hn]⟩
    · exact .inr ⟨hn, by simp [channelPacket_delivered, channelDelivery, hn]⟩
  · rintro rfl
    exact ⟨_, rfl, by simpa [Instr.payloadFits] using hfits, rfl⟩

end Sys2Proof.Machine
end

section
/-! SUPPORT. Which bytes of memory a push may change (`20_memory.md` R46), and the registers each storing
procedure may write. -/

namespace Sys2Proof.Machine

/-! ### The accumulator -/

namespace SxAccumulator

variable {cap : Nat} (a : SxAccumulator) {v : Byte} {vs : List Byte}

/-- A push changes no byte but the one at `storeIndex`. -/
theorem push_read_of_ne_storeIndex {j : Nat} (hj : a.storeIndex cap ≠ some j) :
    (a.push cap v).buf.read j = a.buf.read j := by
  rw [push_read, if_neg]
  rintro ⟨rfl, hroom⟩
  exact hj (storeIndex_eq_some.mpr ⟨hroom, rfl⟩)

/-- Several pushes change no byte but those at their `storeIndexes`. -/
theorem pushAll_read_of_notMem_storeIndexes {j : Nat} (hj : j ∉ a.storeIndexes cap vs) :
    (a.pushAll cap vs).buf.read j = a.buf.read j := by
  induction vs generalizing a with
  | nil => rfl
  | cons v vs ih =>
    simp only [storeIndexes, List.mem_append, Option.mem_toList, not_or] at hj
    obtain ⟨hfirst, hrest⟩ := hj
    rw [pushAll_cons, ih _ hrest, push_read_of_ne_storeIndex a hfirst]

theorem pushAll_of_full (hfull : cap ≤ a.len) : a.pushAll cap vs = a := by
  induction vs with
  | nil => rfl
  | cons v vs ih => rw [pushAll_cons, a.push_of_full v hfull, ih]

theorem pushAll_len (hlen : a.len ≤ cap) : (a.pushAll cap vs).len = min (a.len + vs.length) cap := by
  induction vs generalizing a with
  | nil => simp [hlen]
  | cons v vs ih =>
    rcases Nat.lt_or_ge a.len cap with hroom | hfull
    · have hpush : (a.push cap v).len = a.len + 1 := by rw [push_len, if_pos hroom]
      rw [pushAll_cons, ih _ (by omega), hpush, List.length_cons, Nat.add_assoc, Nat.add_comm 1]
    · rw [a.pushAll_of_full hfull]; omega

/-- The pushed bytes that fit lie from `sx_len` on in order of arrival (`20_memory.md` R42). -/
theorem pushAll_read (hlen : a.len ≤ cap) (i : Nat) : (a.pushAll cap vs).buf.read i =
    if a.len ≤ i ∧ i < min (a.len + vs.length) cap then vs[i - a.len]? else a.buf.read i := by
  induction vs generalizing a with
  | nil => rw [if_neg (by simp; omega), pushAll_nil]
  | cons v vs ih =>
    rcases Nat.lt_or_ge a.len cap with hroom | hfull
    · have hpush : (a.push cap v).len = a.len + 1 := by rw [push_len, if_pos hroom]
      rw [pushAll_cons, ih _ (by omega), hpush, push_read, List.length_cons]
      rcases Nat.lt_trichotomy i a.len with hlt | rfl | hgt
      · rw [if_neg (by omega), if_neg (by omega), if_neg (by omega)]
      · rw [if_neg (by omega), if_pos ⟨rfl, hroom⟩, if_pos (by omega), Nat.sub_self, List.getElem?_cons_zero]
      · have hoffset : i - a.len = i - (a.len + 1) + 1 := by omega
        rw [if_neg (c := i = a.len ∧ a.len < cap) (by omega), hoffset, List.getElem?_cons_succ]
        exact if_congr (by omega) rfl rfl
    · rw [a.pushAll_of_full hfull, if_neg (by omega)]

@[simp] theorem view_length (g : Agent) (n : Nat) : (a.view g n).length = a.len := by
  simp [view]

/-- Below the length the read port gives the stored byte (`20_memory.md` R47). -/
theorem rdata_of_stored {g : Agent} {n i : Nat} (hi : i < a.len) (hv : a.buf.read i = some v) :
    a.rdata g n i = v := by
  rw [rdata, if_pos hi, hv, Option.getD_some]

theorem view_getElem? {g : Agent} {n i : Nat} (hi : i < a.len) : (a.view g n)[i]? = some (a.rdata g n i) := by
  simp [view, hi]

/-- What a procedure that stores at most one byte makes of the accumulator: with no message open it is left alone,
and otherwise the buffer changes at `storeIndex` only. -/
structure StoresOne (cap : Nat) (a c : SxAccumulator) : Prop where
  closed : a.collecting = false → c = a
  cable : c.cable = a.cable
  reads : ∀ j, a.storeIndex cap ≠ some j → c.buf.read j = a.buf.read j

/-- What a SysEx packet that carries `p1` and further bytes, together `bytes`, makes of the accumulator
(`42_usb_parser.md` R153, R155, R156). -/
structure TakesPacket (cap : Nat) (cn : Nibble) (p1 : Byte) (bytes : List Byte) (a c : SxAccumulator) : Prop where
  start : p1 = 0xF0#8 → ∀ j, j ∉ (a.opened cn).storeIndexes cap bytes → c.buf.read j = a.buf.read j
  continued : p1 ≠ 0xF0#8 → openOn a cn = true →
    (∀ j, j ∉ a.storeIndexes cap bytes → c.buf.read j = a.buf.read j) ∧ c.cable = a.cable
  ignored : p1 ≠ 0xF0#8 → openOn a cn = false → c = a

variable {a}

theorem StoresOne.refl : a.StoresOne cap a := ⟨fun _ => rfl, rfl, fun _ _ => rfl⟩

theorem StoresOne.push (ho : a.collecting = true) : a.StoresOne cap (a.push cap v) :=
  ⟨by simp [ho], a.push_cable v, fun _ hj => a.push_read_of_ne_storeIndex hj⟩

theorem StoresOne.finish (ho : a.collecting = true) : a.StoresOne cap (a.finish cap) :=
  ⟨by simp [ho], a.finish_cable, fun _ hj => a.push_read_of_ne_storeIndex hj⟩

theorem StoresOne.read_of_ne {c : SxAccumulator} (h : a.StoresOne cap c) {k : Nat}
    (hk : a.storeIndex cap = some k) : ∀ j, j ≠ k → c.buf.read j = a.buf.read j := fun j hj =>
  h.reads j (by simp [hk, hj.symm])

theorem StoresOne.read_of_none {c : SxAccumulator} (h : a.StoresOne cap c) (hk : a.storeIndex cap = none) :
    ∀ j, c.buf.read j = a.buf.read j := fun j =>
  h.reads j (by simp [hk])

theorem TakesPacket.of_start {c : SxAccumulator} {cn : Nibble}
    (hbuf : c.buf = ((a.start cap cn).pushAll cap vs).buf) : a.TakesPacket cap cn 0xF0#8 (0xF0#8 :: vs) c where
  start _ _ hj := by
    rw [hbuf]
    exact (a.opened cn).pushAll_read_of_notMem_storeIndexes hj
  continued h1 := absurd rfl h1
  ignored h1 := absurd rfl h1

theorem TakesPacket.of_open {c : SxAccumulator} {cn : Nibble} {p1 : Byte} (h1 : p1 ≠ 0xF0#8)
    (ho : openOn a cn = true) (hbuf : c.buf = (a.pushAll cap vs).buf) (hcable : c.cable = a.cable) :
    a.TakesPacket cap cn p1 vs c where
  start h := absurd h h1
  continued _ _ := ⟨fun _ hj => by rw [hbuf, a.pushAll_read_of_notMem_storeIndexes hj], hcable⟩
  ignored _ hclosed := absurd (ho.symm.trans hclosed) (by decide)

theorem TakesPacket.of_ignored {cn : Nibble} {p1 : Byte} (h1 : p1 ≠ 0xF0#8) (ho : ¬ openOn a cn = true) :
    a.TakesPacket cap cn p1 vs a where
  start h := absurd h h1
  continued _ h := absurd h ho
  ignored _ _ := rfl

end SxAccumulator

theorem SameMemory.of_reads_serial {s t : State} (husb : t.usb = s.usb)
    (h : ∀ j, t.serial.sx.buf.read j = s.serial.sx.buf.read j) : SameMemory s t :=
  ⟨h, fun _ => by rw [husb]⟩

theorem SameMemory.of_reads_usb {s t : State} (hserial : t.serial = s.serial)
    (h : ∀ j, t.usb.sx.buf.read j = s.usb.sx.buf.read j) : SameMemory s t :=
  ⟨fun _ => by rw [hserial], h⟩

theorem SameMemory.of_sx_eq {s t : State} (hserial : t.serial.sx = s.serial.sx) (husb : t.usb.sx = s.usb.sx) :
    SameMemory s t :=
  ⟨fun _ => by rw [hserial], fun _ => by rw [husb]⟩

/-! ### The Serial Parser -/

section Serial
variable (b : Byte) (cap : Nat) (p : SerialParser)

/-- The registers `SYSEX_END` may write (`41_serial_parser.md` R111). -/
theorem sysexEnd_frame :
    sysexEnd cap p = { p with sx := (sysexEnd cap p).sx, event := (sysexEnd cap p).event } := by
  unfold sysexEnd
  split <;> rfl

/-- The registers `DATA` may write (`41_serial_parser.md` R109). -/
theorem dataByte_frame : dataByte b cap p = { p with
    cm := (dataByte b cap p).cm
    cnt := (dataByte b cap p).cnt
    sx := (dataByte b cap p).sx
    event := (dataByte b cap p).event } := by
  unfold dataByte
  split
  · rfl
  · split
    · rfl
    · split
      · split <;> rfl
      · rfl

theorem sysexEnd_storesOne : p.sx.StoresOne cap (sysexEnd cap p).sx := by
  unfold sysexEnd
  split
  case isTrue ho => exact .finish ho
  case isFalse => exact .refl

theorem dataByte_storesOne : p.sx.StoresOne cap (dataByte b cap p).sx := by
  rw [dataByte_sx]
  split
  case isTrue ho => exact .push ho
  case isFalse => exact .refl
end Serial

/-- What the procedures of `DATA`, `SYSEX_END`, the channel status and the system common bytes share. -/
structure SerialParser.StoresOneBy (f : Nat → SerialParser → SerialParser) : Prop where
  sx : ∀ cap (p : SerialParser), p.sx.StoresOne cap (f cap p).sx
  rt : ∀ cap p, (f cap p).rt = p.rt
  resets : ∀ cap p, (f cap p).resets = p.resets

namespace SerialParser

theorem StoresOneBy.sysexEnd : StoresOneBy sysexEnd where
  sx := sysexEnd_storesOne
  rt cap p := by rw [sysexEnd_frame]
  resets cap p := by rw [sysexEnd_frame]

/-- `CHANNEL_STATUS` adds to `SYSEX_END` the writes of `run_status` and `cnt` (`channelStatus_eq`). -/
theorem StoresOneBy.channelStatus (b : Byte) : StoresOneBy (channelStatus b) :=
  ⟨StoresOneBy.sysexEnd.sx, StoresOneBy.sysexEnd.rt, StoresOneBy.sysexEnd.resets⟩

theorem StoresOneBy.dataByte (b : Byte) : StoresOneBy (dataByte b) where
  sx := dataByte_storesOne b
  rt cap p := by rw [dataByte_frame]
  resets cap p := by rw [dataByte_frame]

end SerialParser

theorem channelStatus_cm (b : Byte) (cap : Nat) (p : SerialParser) : (channelStatus b cap p).cm = p.cm := by
  rw [channelStatus_eq, sysexEnd_frame]

/-- The procedure of a serial form that stores at most one byte; all but `DATA` keep `cm_*`. -/
theorem exec_storesOneBy {i : Instr}
    (hi : i = .sysexEnd ∨ i ∈ systemCommonOps ∨ (∃ b, i = .data b) ∨ ∃ c x, x ∈ channelStatusOps c ∧ i = x.1) :
    ∃ f, (∀ s, exec i s = s.stepSerial f) ∧ SerialParser.StoresOneBy f ∧
      ((∀ b, i ≠ .data b) → ∀ cap p, (f cap p).cm = p.cm) := by
  rcases hi with rfl | hi | ⟨b, rfl⟩ | ⟨c, x, hx, rfl⟩
  · exact ⟨_, fun _ => rfl, .sysexEnd, fun _ cap p => by rw [sysexEnd_frame]⟩
  · exact ⟨_, exec_systemCommon hi, systemCommon_eq ▸ .channelStatus _, fun _ => channelStatus_cm _⟩
  · exact ⟨_, fun _ => rfl, .dataByte b, fun hne => absurd rfl (hne b)⟩
  · exact ⟨_, exec_channelStatus hx, .channelStatus _, fun _ => channelStatus_cm _⟩

/-! ### The USB Packet Parser -/

section Usb
variable (cn : Nibble) (p1 p2 p3 : Byte) (rest : List Byte) (cap : Nat) (p : UsbParser)

/-- The registers a start or continuation packet may write (`42_usb_parser.md` R153). -/
theorem sysexStartCont_frame :
    sysexStartCont cn p1 p2 p3 cap p = { p with sx := (sysexStartCont cn p1 p2 p3 cap p).sx } := by
  unfold sysexStartCont
  split
  · rfl
  · split <;> rfl

/-- The registers an end packet of two or three bytes may write (`42_usb_parser.md` R155, R156). -/
theorem sysexEndWith_frame : sysexEndWith cn p1 rest cap p =
    { p with sx := (sysexEndWith cn p1 rest cap p).sx, event := (sysexEndWith cn p1 rest cap p).event } := by
  unfold sysexEndWith
  split
  · rfl
  · split <;> rfl

/-- The registers code index 5 may write (`42_usb_parser.md` R154). -/
theorem sysexEndOne_frame : sysexEndOne cn p1 cap p = { p with
    rt := (sysexEndOne cn p1 cap p).rt
    sx := (sysexEndOne cn p1 cap p).sx
    event := (sysexEndOne cn p1 cap p).event } := by
  unfold sysexEndOne
  split
  · split <;> rfl
  · rfl

theorem sysexStartCont_takesPacket :
    p.sx.TakesPacket cap cn p1 [p1, p2, p3] (sysexStartCont cn p1 p2 p3 cap p).sx := by
  unfold sysexStartCont
  split
  case isTrue h1 => subst h1; exact .of_start rfl
  case isFalse h1 =>
    split
    case isTrue ho => exact .of_open h1 ho rfl (p.sx.pushAll_cable _)
    case isFalse ho => exact .of_ignored h1 ho

theorem sysexEndWith_takesPacket :
    p.sx.TakesPacket cap cn p1 (p1 :: rest) (sysexEndWith cn p1 rest cap p).sx := by
  unfold sysexEndWith
  split
  case isTrue h1 => subst h1; exact .of_start rfl
  case isFalse h1 =>
    split
    case isTrue ho => exact .of_open h1 ho rfl (p.sx.pushAll_cable _)
    case isFalse ho => exact .of_ignored h1 ho

/-- Code index 5 touches the accumulator only when it ends the open message of its cable. -/
theorem sysexEndOne_sx : (sysexEndOne cn p1 cap p).sx =
    if p1 = 0xF7#8 ∧ openOn p.sx cn = true then p.sx.finish cap else p.sx := by
  unfold sysexEndOne
  by_cases h1 : p1 = 0xF7#8
  · by_cases ho : openOn p.sx cn = true <;> simp [h1, ho]
  · simp [h1]

theorem sysexEndOne_rt_of_terminator : (sysexEndOne cn 0xF7#8 cap p).rt = p.rt := by
  rw [sysexEndOne, if_pos rfl]
  split <;> rfl

theorem sysexEndOne_storesOne : p.sx.StoresOne cap (sysexEndOne cn p1 cap p).sx := by
  rw [sysexEndOne_sx]
  split
  case isTrue h =>
    obtain ⟨hopen, -⟩ := openOn_iff.mp h.2
    exact .finish hopen
  case isFalse => exact .refl
end Usb

/-- What code indexes 4, 6 and 7 share: with their bytes, they do to the accumulator what `TakesPacket` says, and
write no other register but `event`. -/
structure UsbParser.TakesPacketBy (cn : Nibble) (p1 : Byte) (bytes : List Byte)
    (f : Nat → UsbParser → UsbParser) : Prop where
  sx : ∀ cap (p : UsbParser), p.sx.TakesPacket cap cn p1 bytes (f cap p).sx
  frame : ∀ cap p, f cap p = { p with sx := (f cap p).sx, event := (f cap p).event }

theorem UsbParser.TakesPacketBy.sysexStartCont (cn : Nibble) (p1 p2 p3 : Byte) :
    TakesPacketBy cn p1 [p1, p2, p3] (sysexStartCont cn p1 p2 p3) where
  sx := sysexStartCont_takesPacket cn p1 p2 p3
  frame cap p := by rw [sysexStartCont_frame]

theorem UsbParser.TakesPacketBy.sysexEndWith (cn : Nibble) (p1 : Byte) (rest : List Byte) :
    TakesPacketBy cn p1 (p1 :: rest) (sysexEndWith cn p1 rest) where
  sx := sysexEndWith_takesPacket cn p1 rest
  frame := sysexEndWith_frame cn p1 rest

/-- The procedures of code indexes 4, 6 and 7, each with the bytes of its packet that it pushes. -/
theorem exec_takesPacketBy {cn : Nibble} {p1 p2 p3 : Byte} {x : Instr × List Byte}
    (hx : x ∈ [(Instr.cin4SysexStartCont cn p1 p2 p3, [p1, p2, p3]), (Instr.cin6SysexEnd2 cn p1 p2 p3, [p1, p2]),
      (Instr.cin7SysexEnd3 cn p1 p2 p3, [p1, p2, p3])]) :
    ∃ f, (∀ s, exec x.1 s = s.stepUsb f) ∧ UsbParser.TakesPacketBy cn p1 x.2 f := by
  simp only [List.mem_cons, List.not_mem_nil, or_false] at hx
  rcases hx with rfl | rfl | rfl
  · exact ⟨_, fun _ => rfl, .sysexStartCont cn p1 p2 p3⟩
  · exact ⟨_, fun _ => rfl, .sysexEndWith cn p1 [p2]⟩
  · exact ⟨_, fun _ => rfl, .sysexEndWith cn p1 [p2, p3]⟩

/-! ### Presented symbols -/

/-- A presented symbol is decoded and run by the next step (`10_state.md` R34). -/
theorem step_presentEdge_symbolEdge (s : State) (y : Symbol) :
    step (s.presentEdge (symbolEdge y)) = exec y.decode s := by
  cases y with
  | byte b => exact step_of_serial_valid (s.presentEdge_input _)
  | packet w => exact step_of_usb_valid (s.presentEdge_input _)

theorem withFetchWord_of_tableSymbol {nbits w : Nat} {y : Symbol} (h : tableSymbol nbits w = some y) (s : State) :
    s.withFetchWord nbits w = s.presentEdge (symbolEdge y) := by
  rw [State.withFetchWord, presentWord, h]

end Sys2Proof.Machine
end

section
/-! The statements of `20_memory.md`: the layout of packets and buffers, what each form stores, the order of edges. -/

namespace Sys2Proof.Machine

/-- Settles O21: by induction on the pushed bytes, each of which has room or finds the buffer full. -/
theorem pushedBytesLieInOrderOfArrival : Obligations.PushedBytesLieInOrderOfArrival := fun _ _ a hlen =>
  ⟨a.pushAll_len hlen, a.pushAll_read hlen⟩

/-- Settles O22: the invariant says that every index of the view has a stored byte. -/
theorem viewReadsTheStoredBytes : Obligations.ViewReadsTheStoredBytes := by
  refine fun cap g n a ha => ⟨a.view_length g n, fun i hi => ?_⟩
  obtain ⟨v, hv⟩ := Option.isSome_iff_exists.mp (ha.stored i hi)
  rw [a.view_getElem? hi, a.rdata_of_stored hi hv, hv]

/-- Settles O37: all four forms run a procedure of `SerialParser.StoresOneBy`. -/
theorem serialFormsThatStoreOneByte : Obligations.SerialFormsThatStoreOneByte := by
  intro s t i hi he
  obtain ⟨f, hf, hstores, hcm⟩ := exec_storesOneBy hi
  obtain ⟨hcfg, husb, -, hserial⟩ := State.stepSerial_eq_next ((hf s).symm.trans he)
  have hsx : s.serial.sx.StoresOne s.cfg.sysexBufferSize t.serial.sx :=
    hserial ▸ hstores.sx _ (s.serial.emit .noMessage)
  refine ⟨fun hclosed => ⟨.of_sx_eq (hsx.closed hclosed) (by rw [husb]), hsx.closed hclosed⟩,
    fun _ => ⟨fun _ => hsx.read_of_ne, fun hnone => .of_reads_serial husb (hsx.read_of_none hnone)⟩,
    hcfg, husb, (congrArg SerialParser.rt hserial).trans (hstores.rt _ _), hsx.cable,
    (congrArg SerialParser.resets hserial).trans (hstores.resets _ _),
    fun hne => (congrArg SerialParser.cm hserial).trans (hcm hne _ _), ?_, ?_⟩
  · rintro ⟨b, rfl⟩
    obtain ⟨-, -, -, hdata⟩ := State.stepSerial_eq_next (f := dataByte b) he
    exact hdata ▸ dataByte_keeps b _ _
  · rintro rfl
    obtain ⟨-, -, -, hend⟩ := State.stepSerial_eq_next (f := sysexEnd) he
    rw [sysexEnd_frame] at hend
    exact ⟨by simp [hend], by simp [hend]⟩

/-- Settles O39: code indexes 4, 6 and 7 run a procedure of `UsbParser.TakesPacketBy`; code index 5 finishes the open
message of its cable or leaves the accumulator alone. -/
theorem sysexPacketsStoreOnlyTheirBytes : Obligations.SysexPacketsStoreOnlyTheirBytes := by
  refine fun s t cn p1 p2 p3 => ⟨fun x hx he => ?_, fun he => ?_⟩
  · obtain ⟨f, hf, htakes⟩ := exec_takesPacketBy hx
    obtain ⟨hcfg, hserial, -, husb⟩ := State.stepUsb_eq_next ((hf s).symm.trans he)
    have hsx : s.usb.sx.TakesPacket s.cfg.sysexBufferSize cn p1 x.2 t.usb.sx :=
      husb ▸ htakes.sx _ (s.usb.emit .noMessage)
    have hframe := husb.trans (htakes.frame _ _)
    exact ⟨hsx.start, hsx.continued,
      fun h1 ho => ⟨.of_sx_eq (by rw [hserial]) (hsx.ignored h1 ho), hsx.ignored h1 ho⟩,
      hcfg, hserial, by simp [hframe], by simp [hframe], by simp [hframe]⟩
  · obtain ⟨hcfg, hserial, -, husb⟩ := State.stepUsb_eq_next (f := sysexEndOne cn p1) he
    have hstores : s.usb.sx.StoresOne s.cfg.sysexBufferSize t.usb.sx :=
      husb ▸ sysexEndOne_storesOne cn p1 _ (s.usb.emit .noMessage)
    have hframe := husb.trans (sysexEndOne_frame cn p1 _ _)
    have hkept (h : ¬ (p1 = 0xF7#8 ∧ openOn s.usb.sx cn = true)) : SameMemory s t ∧ t.usb.sx = s.usb.sx := by
      have hsx : t.usb.sx = s.usb.sx := by rw [husb, sysexEndOne_sx]; exact if_neg h
      exact ⟨.of_sx_eq (by rw [hserial]) hsx, hsx⟩
    refine ⟨fun _ _ => ⟨fun _ => hstores.read_of_ne,
        fun hnone => .of_reads_usb hserial (hstores.read_of_none hnone)⟩,
      fun _ ho => hkept (by simp [ho]), ?_, fun h1 => hkept (by simp [h1]),
      hstores.cable, hcfg, hserial, by simp [hframe], by simp [hframe]⟩
    rintro rfl
    exact husb ▸ sysexEndOne_rt_of_terminator cn _ _

/-- Settles O59: each edge computes its own parser from the parameter and that parser alone. -/
theorem edgesOfTheTwoInstancesCommute : Obligations.EdgesOfTheTwoInstancesCommute := by
  intro s e f he hf
  obtain ⟨F, hF⟩ := takeEdge_serial he
  obtain ⟨G, hG⟩ := takeEdge_usb hf
  exact ⟨_, _, _, hF s, hG _, hG s, hF _⟩

/-- Settles O6: packing and taking apart are inverse, byte by byte and nibble by nibble. -/
theorem packetFieldsAreItsBytes : Obligations.PacketFieldsAreItsBytes :=
  ⟨fun p0 p1 p2 p3 => by simp [List.range_succ], packetWord_bytes,
    fun cn cin => ⟨hiNibble_statusByte cn cin, loNibble_statusByte cn cin⟩⟩

/-- Settles O11: a word that decodes has a symbol, and the next step runs a presented symbol. -/
theorem presentedTableWordRunsNext : Obligations.PresentedTableWordRunsNext := by
  intro s nbits w i hi
  obtain ⟨y, hy, rfl⟩ := Option.map_eq_some_iff.mp hi
  rw [withFetchWord_of_tableSymbol hy, step_presentEdge_symbolEdge]

/-- Settles O36: none of the four procedures writes the accumulator. -/
theorem formsThatStoreNothing : Obligations.FormsThatStoreNothing := by
  refine fun s t => ⟨fun x hx he => ?_, fun cn p1 p2 p3 i hi he => ?_, fun cn p1 p2 p3 i hi he => ?_,
    fun cn p1 p2 p3 he => ?_⟩
  · cases (exec_realTime hx s).symm.trans he
    exact ⟨.of_sx_eq rfl rfl, rfl, rfl, rfl, rfl, rfl, rfl, rfl⟩
  · cases (exec_channelPacket hi s).symm.trans he
    exact ⟨.of_sx_eq rfl rfl, rfl, rfl, rfl, rfl, rfl⟩
  · cases (exec_reserved hi s).symm.trans he
    exact ⟨.of_sx_eq rfl rfl, rfl, rfl, rfl, rfl, rfl, rfl⟩
  · cases he
    exact ⟨.of_sx_eq rfl rfl, rfl, rfl, rfl, rfl, rfl⟩

/-- Settles O38: `SX_START` is one push to the message just opened. -/
theorem sysexStartStoresOneByte : Obligations.SysexStartStoresOneByte := by
  intro s t he
  obtain ⟨hcfg, husb, -, hserial⟩ := State.stepSerial_eq_next (f := sysexStart) he
  refine ⟨fun a ha j hj => ?_, hcfg, husb, by rw [hserial]; rfl, by rw [hserial]; rfl, by rw [hserial]; rfl⟩
  rw [hserial]
  exact (s.serial.sx.opened 0#4).push_read_of_ne_storeIndex (by simp [ha, hj.symm])

end Sys2Proof.Machine
end

section
/-! SUPPORT. The encoder beside the decoder, for packets, status bytes and data bytes, and the rows of the opcode
table that cover an operation's symbol (`30_encoding.md` R61 to R65). -/

namespace Sys2Proof

open Machine

/-! ### Packets -/

/-- The sixteen packet operations with these operands, each with its code index (R64). -/
def packetOps (cn : Nibble) (p1 p2 p3 : Byte) : List (Instr × Nibble) :=
  [(.cin0Misc cn p1 p2 p3, 0x0#4), (.cin1CableEvent cn p1 p2 p3, 0x1#4), (.cin2Syscom2 cn p1 p2 p3, 0x2#4),
   (.cin3Syscom3 cn p1 p2 p3, 0x3#4), (.cin4SysexStartCont cn p1 p2 p3, 0x4#4), (.cin5SysexEnd1 cn p1 p2 p3, 0x5#4),
   (.cin6SysexEnd2 cn p1 p2 p3, 0x6#4), (.cin7SysexEnd3 cn p1 p2 p3, 0x7#4), (.cin8NoteOff cn p1 p2 p3, 0x8#4),
   (.cin9NoteOn cn p1 p2 p3, 0x9#4), (.cinAPolyPressure cn p1 p2 p3, 0xA#4), (.cinBControlChange cn p1 p2 p3, 0xB#4),
   (.cinCProgramChange cn p1 p2 p3, 0xC#4), (.cinDChannelPressure cn p1 p2 p3, 0xD#4),
   (.cinEPitchBend cn p1 p2 p3, 0xE#4), (.cinFSingleByte cn p1 p2 p3, 0xF#4)]

/-- The packet operations are all the operations of the USB Packet Parser. -/
theorem exists_mem_packetOps {i : Instr} (h : i.agent = .usb) :
    ∃ cn p1 p2 p3 cin, (i, cin) ∈ packetOps cn p1 p2 p3 := by
  cases i <;> first
    | (cases h; done)
    | (rename_i cn p1 p2 p3; exact ⟨cn, p1, p2, p3, by simp [packetOps]⟩)

section PacketOps
variable {cn : Nibble} {p1 p2 p3 : Byte} {x : Instr × Nibble}

theorem encode_of_mem_packetOps (hx : x ∈ packetOps cn p1 p2 p3) : encode x.1 = [statusByte cn x.2, p1, p2, p3] := by
  simp only [packetOps, List.mem_cons, List.not_mem_nil, or_false] at hx
  rcases hx with rfl | rfl | rfl | rfl | rfl | rfl | rfl | rfl | rfl | rfl | rfl | rfl | rfl | rfl | rfl | rfl <;> rfl

theorem decodePacketBytes_of_mem_packetOps (hx : x ∈ packetOps cn p1 p2 p3) :
    decodePacketBytes (statusByte cn x.2) p1 p2 p3 = x.1 := by
  simp only [packetOps, List.mem_cons, List.not_mem_nil, or_false] at hx
  rcases hx with rfl | rfl | rfl | rfl | rfl | rfl | rfl | rfl | rfl | rfl | rfl | rfl | rfl | rfl | rfl | rfl <;>
    simp [decodePacketBytes]

end PacketOps

/-- Byte 0 alone selects the operation of a packet: its low nibble is the code index, its high nibble the cable
number (R63, R65). -/
theorem decodePacketBytes_mem_packetOps (p0 p1 p2 p3 : Byte) :
    (decodePacketBytes p0 p1 p2 p3, loNibble p0) ∈ packetOps (hiNibble p0) p1 p2 p3 := by
  rcases nibble_cases (loNibble p0) with h | h | h | h | h | h | h | h | h | h | h | h | h | h | h | h <;>
    simp [decodePacketBytes, packetOps, h]

theorem encode_decodePacketBytes (p0 p1 p2 p3 : Byte) : encode (decodePacketBytes p0 p1 p2 p3) = [p0, p1, p2, p3] := by
  rw [encode_of_mem_packetOps (decodePacketBytes_mem_packetOps p0 p1 p2 p3), statusByte_nibbles]

theorem encodeWord_decodePacket (w : PacketWord) : encodeWord (decodePacket w) = w := by
  rw [encodeWord, decodePacket, encode_decodePacketBytes]
  exact packetWord_bytes w

/-- Every operand of a packet is a whole field of it, so no packet operation is ill formed. -/
theorem wellFormed_of_usb {i : Instr} (h : i.agent = .usb) : i.wellFormed = true := by
  cases i with
  | data b => cases h
  | _ => rfl

theorem exists_packet_of_usb {i : Instr} (h : i.agent = .usb) :
    ∃ p0 p1 p2 p3, encode i = [p0, p1, p2, p3] ∧ decodePacketBytes p0 p1 p2 p3 = i := by
  obtain ⟨cn, p1, p2, p3, cin, hi⟩ := exists_mem_packetOps h
  exact ⟨_, p1, p2, p3, encode_of_mem_packetOps hi, decodePacketBytes_of_mem_packetOps hi⟩

/-! ### Serial bytes -/

/-- The operations of the bytes `0xF0` to `0xF7`, each with its byte (R61). -/
def sysexAndCommonOps : List (Instr × Byte) :=
  [(.sysexStart, 0xF0#8), (.scF1, 0xF1#8), (.scF2, 0xF2#8), (.scF3, 0xF3#8), (.scF4, 0xF4#8), (.scF5, 0xF5#8),
   (.scF6, 0xF6#8), (.sysexEnd, 0xF7#8)]

/-- The operations of the status bytes, each with its byte, the channel operations for channel `c`. -/
def statusOps (c : Nibble) : List (Instr × Byte) := channelStatusOps c ++ sysexAndCommonOps ++ realTimeOps

/-- `DATA` and the operations of the status bytes are all the operations of the Serial Parser. -/
theorem exists_mem_statusOps {i : Instr} (h : i.agent = .serial) :
    (∃ b, i = .data b) ∨ ∃ c b, (i, b) ∈ statusOps c := by
  rcases serial_groups h with hd | ⟨c, x, hx, rfl⟩ | rfl | hi | rfl | ⟨x, hx, rfl⟩
  · exact .inl hd
  · exact .inr ⟨c, x.2, by simp [statusOps, hx]⟩
  · exact .inr ⟨0x0#4, 0xF0#8, by decide⟩
  · have hcommon : ∀ i ∈ systemCommonOps, ∃ x ∈ statusOps 0x0#4, x.1 = i := by decide
    obtain ⟨x, hx, rfl⟩ := hcommon i hi
    exact .inr ⟨0x0#4, x.2, hx⟩
  · exact .inr ⟨0x0#4, 0xF7#8, by decide⟩
  · exact .inr ⟨0x0#4, x.2, by simp [statusOps, hx]⟩

section StatusOps
variable {c : Nibble} {x : Instr × Byte}

/-- The encodings of R61, compared for the 16 channels and the 16 bytes without an operand. -/
theorem encode_of_mem_statusOps (hx : x ∈ statusOps c) : encode x.1 = [x.2] ∧ x.1.wellFormed = true := by
  revert hx x c
  decide

/-- The decoder's two nested tables of nibbles, compared with R61 in the same way. -/
theorem decodeSerial_of_mem_statusOps (hx : x ∈ statusOps c) : decodeSerial x.2 = x.1 := by
  revert hx x c
  decide

end StatusOps

/-- Each of the 128 status bytes has its operation among those of its low nibble (R62). -/
theorem decodeSerial_mem_statusOps {b : Byte} (h : 0x80#8 ≤ b) : (decodeSerial b, b) ∈ statusOps (loNibble b) := by
  revert h b
  decide

theorem encode_decodeSerial (b : Byte) : encode (decodeSerial b) = [b] ∧ (decodeSerial b).wellFormed = true := by
  by_cases h : b < 0x80#8
  · rw [decodeSerial_data h]
    exact ⟨rfl, decide_eq_true h⟩
  · exact encode_of_mem_statusOps (decodeSerial_mem_statusOps (BitVec.not_lt.mp h))

theorem encodeWord_decodeSerial (b : Byte) : encodeWord (decodeSerial b) = b.setWidth 32 := by
  rw [encodeWord, (encode_decodeSerial b).1]

theorem exists_byte_of_serial {i : Instr} (h : i.agent = .serial) (hwf : i.wellFormed = true) :
    ∃ b, encode i = [b] ∧ decodeSerial b = i := by
  rcases exists_mem_statusOps h with ⟨b, rfl⟩ | ⟨c, b, hi⟩
  · exact ⟨b, rfl, decodeSerial_data (of_decide_eq_true hwf)⟩
  · exact ⟨b, (encode_of_mem_statusOps hi).1, decodeSerial_of_mem_statusOps hi⟩

/-! ### The rows of the opcode table -/

/-- The encoder agrees with the opcode table on every operation, each by its own law. -/
theorem row_covers_encodeWord : ∀ i : Instr, Laws.TableRow.Statement i
  | .data b => Laws.TableRow.data b
  | .noteOff c => Laws.TableRow.noteOff c
  | .noteOn c => Laws.TableRow.noteOn c
  | .polyPressure c => Laws.TableRow.polyPressure c
  | .controlChange c => Laws.TableRow.controlChange c
  | .programChange c => Laws.TableRow.programChange c
  | .channelPressure c => Laws.TableRow.channelPressure c
  | .pitchBend c => Laws.TableRow.pitchBend c
  | .sysexStart => Laws.TableRow.sysexStart
  | .scF1 => Laws.TableRow.scF1
  | .scF2 => Laws.TableRow.scF2
  | .scF3 => Laws.TableRow.scF3
  | .scF4 => Laws.TableRow.scF4
  | .scF5 => Laws.TableRow.scF5
  | .scF6 => Laws.TableRow.scF6
  | .sysexEnd => Laws.TableRow.sysexEnd
  | .rtF8 => Laws.TableRow.rtF8
  | .rtF9 => Laws.TableRow.rtF9
  | .rtFA => Laws.TableRow.rtFA
  | .rtFB => Laws.TableRow.rtFB
  | .rtFC => Laws.TableRow.rtFC
  | .rtFD => Laws.TableRow.rtFD
  | .rtFE => Laws.TableRow.rtFE
  | .rtFF => Laws.TableRow.rtFF
  | .cin0Misc cn p1 p2 p3 => Laws.TableRow.cin0Misc cn p1 p2 p3
  | .cin1CableEvent cn p1 p2 p3 => Laws.TableRow.cin1CableEvent cn p1 p2 p3
  | .cin2Syscom2 cn p1 p2 p3 => Laws.TableRow.cin2Syscom2 cn p1 p2 p3
  | .cin3Syscom3 cn p1 p2 p3 => Laws.TableRow.cin3Syscom3 cn p1 p2 p3
  | .cin4SysexStartCont cn p1 p2 p3 => Laws.TableRow.cin4SysexStartCont cn p1 p2 p3
  | .cin5SysexEnd1 cn p1 p2 p3 => Laws.TableRow.cin5SysexEnd1 cn p1 p2 p3
  | .cin6SysexEnd2 cn p1 p2 p3 => Laws.TableRow.cin6SysexEnd2 cn p1 p2 p3
  | .cin7SysexEnd3 cn p1 p2 p3 => Laws.TableRow.cin7SysexEnd3 cn p1 p2 p3
  | .cin8NoteOff cn p1 p2 p3 => Laws.TableRow.cin8NoteOff cn p1 p2 p3
  | .cin9NoteOn cn p1 p2 p3 => Laws.TableRow.cin9NoteOn cn p1 p2 p3
  | .cinAPolyPressure cn p1 p2 p3 => Laws.TableRow.cinAPolyPressure cn p1 p2 p3
  | .cinBControlChange cn p1 p2 p3 => Laws.TableRow.cinBControlChange cn p1 p2 p3
  | .cinCProgramChange cn p1 p2 p3 => Laws.TableRow.cinCProgramChange cn p1 p2 p3
  | .cinDChannelPressure cn p1 p2 p3 => Laws.TableRow.cinDChannelPressure cn p1 p2 p3
  | .cinEPitchBend cn p1 p2 p3 => Laws.TableRow.cinEPitchBend cn p1 p2 p3
  | .cinFSingleByte cn p1 p2 p3 => Laws.TableRow.cinFSingleByte cn p1 p2 p3

theorem opcodeTable_nodup : opcodeTable.Nodup := by decide

/-- Two rows of one agent whose patterns agree on the bits both rows fix are the same row. -/
theorem eq_of_patterns_agree : ∀ r ∈ opcodeTable, ∀ q ∈ opcodeTable, r.agent = q.agent →
    r.pattern &&& q.mask = q.pattern &&& r.mask → r = q := by
  decide

/-- A symbol belongs to at most one row of an agent (R62, R65): it gives the patterns of two rows that cover it the
same bits where both are fixed. -/
theorem eq_of_covers {r q : OpcodeRow} {w : BitVec 32} (hr : r ∈ opcodeTable) (hq : q ∈ opcodeTable)
    (hagent : r.agent = q.agent) (hrw : r.covers w = true) (hqw : q.covers w = true) : r = q := by
  have hrp : w &&& r.mask = r.pattern := beq_iff_eq.mp hrw
  have hqp : w &&& q.mask = q.pattern := beq_iff_eq.mp hqw
  have hbits : r.pattern &&& q.mask = q.pattern &&& r.mask := by
    rw [← hrp, ← hqp, BitVec.and_assoc, BitVec.and_comm r.mask, BitVec.and_assoc]
  exact eq_of_patterns_agree r hr q hq hagent hbits

/-- A well-formed operation's own row is the one row of its agent that covers its symbol. -/
theorem filter_covers_encodeWord {i : Instr} (h : i.wellFormed = true) :
    opcodeTable.filter (fun r => r.agent == i.agent && r.covers (encodeWord i)) = [i.row] := by
  obtain ⟨hmem, hagent, hcovers⟩ := row_covers_encodeWord i h
  have hrow (r : OpcodeRow) :
      r ∈ opcodeTable.filter (fun r => r.agent == i.agent && r.covers (encodeWord i)) ↔ r ∈ [i.row] := by
    simp only [List.mem_filter, Bool.and_eq_true, beq_iff_eq, List.mem_singleton]
    constructor
    · rintro ⟨hr, ha, hc⟩
      exact eq_of_covers hr hmem (ha.trans hagent.symm) hc hcovers
    · rintro rfl
      exact ⟨hmem, hagent, hcovers⟩
  exact List.perm_singleton.mp
    ((List.perm_ext_iff_of_nodup (opcodeTable_nodup.filter _) (List.nodup_singleton _)).mpr hrow)

/-! ### The header -/

namespace Machine

@[simp] theorem headerType_statusByte (t c : Nibble) : headerType (statusByte t c) = t := hiNibble_statusByte t c

@[simp] theorem headerChannel_statusByte (t c : Nibble) : headerChannel (statusByte t c) = c := loNibble_statusByte t c

/-- The types with two data bytes (R67). -/
theorem ndata_statusByte_eq_two {t : Nibble} (h : t ∈ [0x8#4, 0x9#4, 0xA#4, 0xB#4, 0xE#4]) (c : Nibble) :
    ndata (statusByte t c) = some 2 := by
  simp only [List.mem_cons, List.not_mem_nil, or_false] at h
  rcases h with rfl | rfl | rfl | rfl | rfl <;> simp [ndata]

/-- The types with one data byte (R67). -/
theorem ndata_statusByte_eq_one {t : Nibble} (h : t ∈ [0xC#4, 0xD#4]) (c : Nibble) :
    ndata (statusByte t c) = some 1 := by
  simp only [List.mem_cons, List.not_mem_nil, or_false] at h
  rcases h with rfl | rfl <;> simp [ndata]

end Machine

end Sys2Proof
end

section
/-! The statements of `30_encoding.md`: the encoder and the decoder are inverse, each symbol has one row of the
opcode table, and the codes and fields have the table's values. -/

namespace Sys2Proof

open Machine

/-- Settles O1: the symbol of a well-formed operation is one byte or one packet that decodes to it, by the groups of
operations of its agent. -/
theorem decodeInvertsEncode : Obligations.DecodeInvertsEncode := by
  intro i hwf
  cases hagent : i.agent with
  | serial =>
    obtain ⟨b, hencode, hdecode⟩ := exists_byte_of_serial hagent hwf
    rw [hencode]
    exact congrArg Except.ok hdecode
  | usb =>
    obtain ⟨p0, p1, p2, p3, hencode, hdecode⟩ := exists_packet_of_usb hagent
    rw [hencode]
    exact congrArg Except.ok hdecode

/-- Settles O2: a byte decodes to `DATA` or to the operation of its status byte, and a packet to the operation of
its code index. -/
theorem encodeInvertsDecode : Obligations.EncodeInvertsDecode := by
  refine ⟨fun b => ?_, fun p0 p1 p2 p3 => ?_⟩
  · obtain ⟨hencode, hwf⟩ := encode_decodeSerial b
    exact ⟨hencode, hwf, decodeSerial_agent b⟩
  · have hagent := decodePacketBytes_agent p0 p1 p2 p3
    exact ⟨encode_decodePacketBytes p0 p1 p2 p3, wellFormed_of_usb hagent, hagent⟩

/-- Settles O4: a packet is the symbol of the operation it decodes to, whose row is the one that covers it. -/
theorem everyPacketHasOneRow : Obligations.EveryPacketHasOneRow := by
  refine ⟨by decide, fun w => ?_⟩
  have h := filter_covers_encodeWord (wellFormed_of_usb (decodePacket_agent w))
  rwa [decodePacket_agent, encodeWord_decodePacket] at h

/-- Settles O3: a byte is the symbol of the operation it decodes to, whose row is the one that covers it. -/
theorem everySerialByteHasOneRow : Obligations.EverySerialByteHasOneRow := by
  refine ⟨by decide, fun b => ?_⟩
  have h := filter_covers_encodeWord (encode_decodeSerial b).2
  rwa [decodeSerial_agent, encodeWord_decodeSerial] at h

/-- Settles O5: eleven symbols written out, each decoded. -/
theorem writtenSymbolsDecode : Obligations.WrittenSymbolsDecode := by
  unfold Obligations.WrittenSymbolsDecode
  decide

/-- Settles O7: the four events and the four codes, one by one. -/
theorem eventCodesAreTheTable : Obligations.EventCodesAreTheTable :=
  ⟨rfl, rfl, rfl, rfl, fun e => by cases e <;> rfl, by decide⟩

/-- Settles O8: the header of type `t` and channel `c` has the two as its nibbles, and its type alone gives the
number of data bytes. -/
theorem headerFieldsAndDataByteCount : Obligations.HeaderFieldsAndDataByteCount := fun t c =>
  ⟨headerType_statusByte t c, headerChannel_statusByte t c, fun h => ndata_statusByte_eq_two h c,
    fun h => ndata_statusByte_eq_one h c⟩

end Sys2Proof
end

section
/-! SUPPORT. The whole of a serial SysEx message: what the view of a message built from its opening shows, the run
of its byte stream, and the one way any serial operation ends it (`40_sysex_accumulator.md`). -/

namespace Sys2Proof.Machine

/-! ### The accumulator -/

namespace SxAccumulator

variable {cap : Nat} (a : SxAccumulator) (cn : Nibble) (g : Agent) (n : Nat)

@[simp] theorem close_view : a.close.view g n = a.view g n := rfl

theorem opened_pushAll_len (vs : List Byte) : ((a.opened cn).pushAll cap vs).len = min vs.length cap := by
  rw [(a.opened cn).pushAll_len (Nat.zero_le cap), opened_len, Nat.zero_add]

/-- A message shows the first `CAP` bytes pushed since it was opened, whatever the buffer held before. -/
theorem opened_pushAll_view (vs : List Byte) : ((a.opened cn).pushAll cap vs).view g n = vs.take cap := by
  refine List.ext_getElem? fun i => ?_
  rcases Nat.lt_or_ge i (min vs.length cap) with hi | hi
  · have hstored : ((a.opened cn).pushAll cap vs).buf.read i = some vs[i] := by
      rw [(a.opened cn).pushAll_read (Nat.zero_le cap), if_pos (by simpa using hi)]
      simp
    have hlen : i < ((a.opened cn).pushAll cap vs).len := by rwa [opened_pushAll_len]
    rw [view_getElem? _ hlen, rdata_of_stored _ hlen hstored, List.getElem?_take_of_lt (by omega),
      List.getElem?_eq_getElem]
  · rw [List.getElem?_eq_none (by simpa [opened_pushAll_len] using hi),
      List.getElem?_eq_none (by simp; omega)]

/-- `SX_END` with room: the terminator is stored last and counted (R92 (b)). -/
theorem finish_of_room (h : a.len < cap) : a.finish cap =
    { a with buf := a.buf.write a.len 0xF7#8, len := a.len + 1, collecting := false } := by
  rw [finish, a.push_of_room _ h]; rfl

/-- `SX_END` on a full buffer only closes (R92 (a)). -/
theorem finish_of_full (h : cap ≤ a.len) : a.finish cap = a.close := by
  rw [finish, a.push_of_full _ h]

end SxAccumulator

/-! ### The run of a message -/

section Run
variable {s : State} {b : Byte} {ds bs : List Byte} {rest : List Input}

/-- The first byte of a stream runs its procedure, and the rest of the stream is still to come. -/
theorem step_of_serialEdges {f : Nat → SerialParser → SerialParser}
    (hinput : s.input = serialEdges (b :: bs) ++ rest) (hf : ∀ s, exec (decodeSerial b) s = s.stepSerial f) :
    step s = .next { s with
      serial := f s.cfg.sysexBufferSize (s.serial.emit .noMessage)
      input := serialEdges bs ++ rest } :=
  (step_of_serial_valid hinput).trans (hf _)

/-- The data bytes and the terminator of an open message, byte by byte: each data byte is pushed and leaves the
message open, and the terminator is pushed and closes it. -/
theorem run_dataBytes_sysexEnd (hds : ∀ d ∈ ds, d < 0x80#8) (ho : s.serial.sx.collecting = true)
    (hinput : s.input = serialEdges (ds ++ [0xF7#8]) ++ rest) :
    ∃ t, Host.Core.run Sys2Proof.core (ds.length + 1) s = .next t ∧ t.serial.event = .sysexMessage ∧
      t.serial.sx = (s.serial.sx.pushAll s.cfg.sysexBufferSize (ds ++ [0xF7#8])).close ∧
      t.usb = s.usb ∧ t.input = rest := by
  induction ds generalizing s with
  | nil =>
    have hstep := step_of_serialEdges (f := sysexEnd) hinput fun _ => rfl
    refine ⟨_, run_succ hstep, ?_, ?_, rfl, rfl⟩ <;> simp [sysexEnd, ho, SxAccumulator.finish]
  | cons d ds ih =>
    obtain ⟨hd, hds⟩ := List.forall_mem_cons.mp hds
    have hstep := step_of_serialEdges hinput (exec_data hd)
    have hpush : (dataByte d s.cfg.sysexBufferSize (s.serial.emit .noMessage)).sx =
        s.serial.sx.push s.cfg.sysexBufferSize d := by simp [dataByte_sx, ho]
    rw [List.length_cons, run_succ hstep, List.cons_append, SxAccumulator.pushAll_cons, ← hpush]
    exact ih hds (by simp [hpush, ho]) rfl

/-- The stream of a whole message: its bytes are pushed to the message just opened on cable 0, which is then
closed. -/
theorem run_sysexBytes (hds : ∀ d ∈ ds, d < 0x80#8) (hinput : s.input = serialEdges (sysexBytes ds) ++ rest) :
    ∃ t, Host.Core.run Sys2Proof.core (ds.length + 2) s = .next t ∧ t.serial.event = .sysexMessage ∧
      t.serial.sx = ((s.serial.sx.opened 0#4).pushAll s.cfg.sysexBufferSize (sysexBytes ds)).close ∧
      t.usb = s.usb ∧ t.input = rest := by
  have hstep := step_of_serialEdges (f := sysexStart) hinput fun _ => rfl
  rw [run_succ hstep]
  exact run_dataBytes_sysexEnd hds (s.serial.sx.start_collecting 0#4) rfl

end Run

/-- What the consumer is given when the event is `SYSEX_MESSAGE`. -/
theorem SerialParser.delivered_of_sysexMessage {p : SerialParser} (h : p.event = .sysexMessage) :
    p.delivered = .sysex p.sx.cable (p.sx.view .serial p.resets) := by
  rw [delivered, h]; rfl

/-! ### Ending a message -/

/-- The procedure, started with no event, emits `SYSEX_MESSAGE` only by finishing the open message. -/
def SerialParser.EmitsSysexByFinish (f : Nat → SerialParser → SerialParser) : Prop :=
  ∀ cap p, p.event = .noMessage → (f cap p).event = .sysexMessage →
    p.sx.collecting = true ∧ (f cap p).sx = p.sx.finish cap

namespace SerialParser

theorem EmitsSysexByFinish.sysexEnd : EmitsSysexByFinish sysexEnd := by
  intro cap p hev h
  by_cases ho : p.sx.collecting = true
  · exact ⟨ho, by simp [Machine.sysexEnd, ho]⟩
  · simp [Machine.sysexEnd, ho, hev] at h

/-- `CHANNEL_STATUS` begins with `SYSEX_END` and writes neither the accumulator nor `event` after it. -/
theorem EmitsSysexByFinish.channelStatus (b : Byte) : EmitsSysexByFinish (channelStatus b) :=
  EmitsSysexByFinish.sysexEnd

theorem EmitsSysexByFinish.sysexStart : EmitsSysexByFinish sysexStart := fun _ _ hev h =>
  absurd (hev.symm.trans h) (by decide)

theorem EmitsSysexByFinish.realTime (b : Byte) : EmitsSysexByFinish (realTime b) := fun _ _ _ h =>
  absurd h (by simp [Machine.realTime])

/-- `DATA` emits nothing or `CHANNEL_MESSAGE`. -/
theorem EmitsSysexByFinish.dataByte (b : Byte) : EmitsSysexByFinish (dataByte b) := by
  intro cap p hev h
  have hne : (Machine.dataByte b cap p).event ≠ .sysexMessage := by
    unfold Machine.dataByte
    split
    · simp [hev]
    · split
      · simp [hev]
      · split
        · split <;> simp [emitChannel, hev]
        · simp [emitChannel]
  exact absurd h hne

end SerialParser

/-- A serial byte whose step emits `SYSEX_MESSAGE` finishes the open message, whichever byte it is. -/
theorem exec_byte_finishes {s t : State} {b : Byte} (he : exec (decodeSerial b) s = .next t)
    (hev : t.serial.event = .sysexMessage) :
    s.serial.sx.collecting = true ∧ t.serial.sx = s.serial.sx.finish s.cfg.sysexBufferSize := by
  have finishes {f} (hx : exec (decodeSerial b) s = s.stepSerial f)
      (hf : SerialParser.EmitsSysexByFinish f) :
      s.serial.sx.collecting = true ∧ t.serial.sx = s.serial.sx.finish s.cfg.sysexBufferSize := by
    obtain ⟨-, -, -, hserial⟩ := State.stepSerial_eq_next (hx.symm.trans he)
    rw [hserial] at hev ⊢
    exact hf _ _ rfl hev
  rcases exec_serial_class b s with ⟨-, hx⟩ | ⟨-, -, -, hx⟩ | ⟨-, hx⟩ | ⟨-, -, hx⟩ | ⟨-, hx⟩ | ⟨-, hx⟩
  · exact finishes hx (.dataByte b)
  · exact finishes hx (.channelStatus b)
  · exact finishes hx .sysexStart
  · exact finishes hx (systemCommon_eq ▸ .channelStatus _)
  · exact finishes hx .sysexEnd
  · exact finishes hx (.realTime b)

/-- No byte of an open message is a terminator: the first is `0xF0` and the others are data bytes. -/
theorem SerialParser.Inv.ne_terminator_of_open {cap i : Nat} {p : SerialParser} (h : p.Inv cap)
    (ho : p.sx.collecting = true) (hi : i < p.sx.len) : p.sx.buf.read i ≠ some 0xF7#8 := by
  intro hv
  cases i with
  | zero =>
    obtain ⟨-, hfirst⟩ := h.sx.opened ho
    exact absurd (hfirst.symm.trans hv) (by decide)
  | succ i => exact absurd (h.dataBytes_of_open ho (Nat.le_add_left 1 i) hi hv) (by decide)

end Sys2Proof.Machine
end

section
/-! The statements of `40_sysex_accumulator.md`: the primitives, the last byte of a truncated message, and the whole
message. -/

namespace Sys2Proof.Machine

/-- Settles O57: the stream is its bytes pushed to the message it opens (`run_sysexBytes`), whose view is the first
`CAP` of them. -/
theorem serialSysexDeliversTheFirstCapBytes : Obligations.SerialSysexDeliversTheFirstCapBytes := by
  intro s ds rest hds hinput
  obtain ⟨t, hrun, hev, hsx, husb, hrest⟩ := run_sysexBytes hds hinput
  refine ⟨t, hrun, hev, by simp [hsx], ?_, ?_, husb, hrest⟩
  · rw [hsx, SxAccumulator.close_len, SxAccumulator.opened_pushAll_len]
    simp [sysexBytes]
  · rw [t.serial.delivered_of_sysexMessage hev, hsx, SxAccumulator.close_view, SxAccumulator.opened_pushAll_view]
    simp

/-- Settles O48: the step finishes the open message, whose bytes are no terminators; with room the terminator
becomes the last byte, and on a full buffer the last byte stays. -/
theorem serialTruncationShowsInTheLastByte : Obligations.SerialTruncationShowsInTheLastByte := by
  intro s t b hinv he hev
  obtain ⟨ho, hsx⟩ := exec_byte_finishes he hev
  rw [hsx]
  rcases Nat.lt_or_ge s.serial.sx.len s.cfg.sysexBufferSize with hroom | hfull
  · rw [s.serial.sx.finish_of_room hroom]
    exact .inl ⟨hroom, rfl, by simp [Memory.read_write]⟩
  · have hlen : s.serial.sx.len = s.cfg.sysexBufferSize := Nat.le_antisymm hinv.sx.lenLe hfull
    obtain ⟨hpos, -⟩ := hinv.sx.opened ho
    rw [s.serial.sx.finish_of_full hfull]
    exact .inr ⟨hlen, hlen, hinv.ne_terminator_of_open ho (Nat.sub_one_lt_of_lt hpos)⟩

/-- Settles O18: the two cases of `SX_PUSH`, of which only the first writes, below the capacity. -/
theorem pushStoresOrDrops : Obligations.PushStoresOrDrops := by
  refine fun cap v a => ⟨a.push_cable v, a.push_collecting v, fun hroom => ⟨?_, fun i => ?_⟩,
    fun hfull _ => a.pushAll_of_full hfull, fun i hi => ?_⟩
  · rw [a.push_len, if_pos hroom]
  · simp [a.push_read, hroom]
  · rw [a.push_read, if_neg (by omega)]

/-- Settles O19: the push of `0xF0` to the message just opened finds room. -/
theorem startOpensANewMessage : Obligations.StartOpensANewMessage := by
  intro cap cn a hcap
  rw [a.start_eq cn hcap]
  refine ⟨rfl, rfl, rfl, by simp [Memory.read_write], fun i hi => ?_⟩
  rw [Memory.read_write, if_neg (by omega)]

/-- Settles O20: `SX_END` is the push of `0xF7` with or without room, then `SX_CLOSE`. -/
theorem endPushesTheTerminatorAndCloses : Obligations.EndPushesTheTerminatorAndCloses := by
  refine fun cap a => ⟨rfl, a.finish_collecting, a.finish_cable, fun hroom => ?_, fun hfull => ?_⟩
  · rw [a.finish_of_room hroom]
    exact ⟨rfl, fun i => a.buf.read_write _ _ _⟩
  · rw [a.finish_of_full hfull]
    exact ⟨rfl, fun _ => rfl⟩

end Sys2Proof.Machine
end

section
/-! SUPPORT. The procedures of the Serial Parser arm by arm (`41_serial_parser.md` R101, R109 to R112, R119), the
operation of a byte by its class, and the control state each leaves (R128). -/

namespace Sys2Proof.Machine

/-! ### The operation of a byte by its class -/

section ByteClass
variable {b : Byte}

theorem exec_channelStatusByte (h1 : 0x80#8 ≤ b) (h2 : b ≤ 0xEF#8) (s : State) :
    exec (decodeSerial b) s = s.stepSerial (channelStatus b) :=
  exec_header (SerialParser.ndata_isSome_of_status h1 h2) s

theorem exec_systemCommonByte (h1 : 0xF1#8 ≤ b) (h2 : b ≤ 0xF6#8) (s : State) :
    exec (decodeSerial b) s = s.stepSerial systemCommon := by
  have hmem : decodeSerial b ∈ systemCommonOps := by revert b; decide
  exact exec_systemCommon hmem s

theorem exec_realTimeByte (h : 0xF8#8 ≤ b) (s : State) :
    exec (decodeSerial b) s = s.stepSerial (realTime b) := by
  have hmem : (decodeSerial b, b) ∈ realTimeOps := by revert b; decide
  exact exec_realTime hmem s

/-- No channel status byte is the value of no running status. -/
theorem ne_zero_of_mem_channelStatusOps {c : Nibble} {x : Instr × Byte} (hx : x ∈ channelStatusOps c) :
    x.2 ≠ 0x00#8 := by
  revert hx x c; decide

end ByteClass

/-! ### A step by its procedure -/

section Step
variable {s t : State} {f : Nat → SerialParser → SerialParser}

/-- What an operation whose procedure is known leaves of the Serial Parser. -/
theorem serial_eq_of_exec {i : Instr} (hx : exec i s = s.stepSerial f) (he : exec i s = .next t) :
    t.serial = f s.cfg.sysexBufferSize (s.serial.emit .noMessage) := by
  obtain ⟨-, -, -, hserial⟩ := State.stepSerial_eq_next (hx.symm.trans he)
  exact hserial

theorem stepSerial_eq_of_procedure {q : SerialParser} (h : f s.cfg.sysexBufferSize (s.serial.emit .noMessage) = q) :
    s.stepSerial f = .next { s with serial := q } := by
  rw [State.stepSerial, h]

end Step

/-! ### Each procedure arm by arm -/

section Arms
variable (b : Byte) (cap : Nat) {p : SerialParser}

theorem sysexEnd_of_open (ho : p.sx.collecting = true) :
    sysexEnd cap p = { p with sx := p.sx.finish cap, event := .sysexMessage } := if_pos ho

theorem sysexEnd_of_closed (hc : p.sx.collecting = false) : sysexEnd cap p = p := by
  simp [sysexEnd, hc]

theorem channelStatus_of_open (ho : p.sx.collecting = true) : channelStatus b cap p =
    { p with sx := p.sx.finish cap, event := .sysexMessage, runStatus := b, cnt := false } := by
  rw [channelStatus_eq, sysexEnd_of_open cap ho]

theorem channelStatus_of_closed (hc : p.sx.collecting = false) :
    channelStatus b cap p = { p with runStatus := b, cnt := false } := by
  rw [channelStatus_eq, sysexEnd_of_closed cap hc]

theorem dataByte_of_open (ho : p.sx.collecting = true) : dataByte b cap p = { p with sx := p.sx.push cap b } :=
  if_pos ho

theorem dataByte_of_idle (hc : p.sx.collecting = false) (hr : p.runStatus = 0x00#8) : dataByte b cap p = p := by
  simp [dataByte, hc, hr]

/-- The first of two data bytes is held. -/
theorem dataByte_of_first (hc : p.sx.collecting = false) (h2 : ndata p.runStatus = some 2) (hcnt : p.cnt = false) :
    dataByte b cap p = { p with cm := { p.cm with data1 := b }, cnt := true } := by
  simp [dataByte, hc, ne_zero_of_ndata h2, h2, hcnt]

/-- The second of two data bytes completes the message. -/
theorem dataByte_of_second (hc : p.sx.collecting = false) (h2 : ndata p.runStatus = some 2) (hcnt : p.cnt = true) :
    dataByte b cap p = { p with
      cm := { header := p.runStatus, data1 := p.cm.data1, data2 := b, cable := 0#4 }
      cnt := false
      event := .channelMessage } := by
  simp [dataByte, hc, ne_zero_of_ndata h2, h2, hcnt, emitChannel]

/-- The one data byte of its type completes the message. -/
theorem dataByte_of_single (hc : p.sx.collecting = false) (h1 : ndata p.runStatus = some 1) :
    dataByte b cap p = { p with
      cm := { header := p.runStatus, data1 := b, data2 := p.cm.data2, cable := 0#4 }
      event := .channelMessage } := by
  simp [dataByte, hc, ne_zero_of_ndata h1, h1, emitChannel]

end Arms

/-! ### The control state -/

section ControlState
variable (b : Byte) (cap : Nat) (p : SerialParser)

theorem controlState_dataByte : controlState (dataByte b cap p) = controlState p := by
  obtain ⟨hrun, hcoll⟩ := dataByte_keeps b cap p
  exact controlState_congr hrun hcoll

theorem controlState_sysexStart : controlState (sysexStart cap p) = .sysex :=
  controlState_eq_sysex.mpr (p.sx.start_collecting 0#4)

theorem controlState_systemCommon : controlState (systemCommon cap p) = .idle :=
  controlState_eq_idle.mpr ⟨sysexEnd_collecting cap p, rfl⟩

variable {b p}

theorem controlState_channelStatus (hb : b ≠ 0x00#8) : controlState (channelStatus b cap p) = .chan :=
  controlState_eq_chan.mpr ⟨sysexEnd_collecting cap p, hb⟩

theorem controlState_sysexEnd_of_no_runStatus (hr : p.runStatus = 0x00#8) :
    controlState (sysexEnd cap p) = .idle :=
  controlState_eq_idle.mpr ⟨sysexEnd_collecting cap p, by rw [sysexEnd_runStatus, hr]⟩

/-- A stray terminator keeps the control state. -/
theorem controlState_sysexEnd_of_closed (hc : p.sx.collecting = false) :
    controlState (sysexEnd cap p) = controlState p := by
  rw [sysexEnd_of_closed cap hc]

end ControlState

end Sys2Proof.Machine
end

section
/-! SUPPORT. The event of a step by the control state it starts in (R128), and what the arms of `DATA` need under the
invariant. -/

namespace Sys2Proof.Machine

section Event
variable {b : Byte} {cap : Nat} {p : SerialParser}

/-- The operations that end an open message, as R128 has their event. -/
theorem sysexEnd_event (hev : p.event = .noMessage) :
    (sysexEnd cap p).event = if controlState p = .sysex then .sysexMessage else .noMessage := by
  cases ho : p.sx.collecting with
  | true => rw [sysexEnd_of_open cap ho, if_pos (controlState_eq_sysex.mpr ho)]
  | false => rw [sysexEnd_of_closed cap ho, hev, if_neg (by simp [controlState_eq_sysex, ho])]

theorem channelStatus_event (hev : p.event = .noMessage) :
    (channelStatus b cap p).event = if controlState p = .sysex then .sysexMessage else .noMessage :=
  sysexEnd_event hev

theorem dataByte_event_of_not_chan (hev : p.event = .noMessage) (hs : controlState p ≠ .chan) :
    (dataByte b cap p).event = .noMessage := by
  cases ho : p.sx.collecting with
  | true => rw [dataByte_of_open b cap ho, hev]
  | false =>
    have hr : p.runStatus = 0x00#8 := by simpa [controlState_eq_chan, ho] using hs
    rw [dataByte_of_idle b cap ho hr, hev]

end Event

/-- A running status has one data byte or two. -/
theorem ndata_eq_one_or_two {h : Byte} (hn : (ndata h).isSome = true) : ndata h = some 1 ∨ ndata h = some 2 := by
  revert h; decide

/-- With a running status of one data byte, `cnt` is 0 (`10_state.md` R26 item 3). -/
theorem SerialParser.Inv.cnt_of_single {cap : Nat} {p : SerialParser} (h : p.Inv cap)
    (h1 : ndata p.runStatus = some 1) : p.cnt = false := by
  cases hcnt : p.cnt with
  | false => rfl
  | true =>
    obtain ⟨h2, -, -⟩ := h.held hcnt
    exact absurd (h1.symm.trans h2) (by decide)

end Sys2Proof.Machine
end

section
/-! SUPPORT. Real-time bytes in a serial stream (R131): every step clears `event` first and the procedures of the other
bytes ignore `rt_*`, so the run with the real-time bytes simulates the run without them. -/

namespace Sys2Proof.Machine

/-- A byte that completes is the first of the run of its stream. -/
theorem serialTrace_cons_eq_some {s t u : State} {b : Byte} {bs : List Byte} {ds : List Delivery}
    (he : exec (decodeSerial b) s = .next t) (h : serialTrace t bs = some (ds, u)) :
    serialTrace s (b :: bs) = some (t.serial.delivered :: ds, u) := by
  rw [serialTrace_cons he, h]; rfl

/-- The procedure neither reads nor writes `rt_*`. -/
def SerialParser.IgnoresRealTime (f : Nat → SerialParser → SerialParser) : Prop :=
  ∀ cap p r, f cap { p with rt := r } = { f cap p with rt := r }

namespace SerialParser

theorem IgnoresRealTime.sysexEnd : IgnoresRealTime sysexEnd := by
  intro cap p r
  simp only [Machine.sysexEnd]
  split <;> rfl

theorem IgnoresRealTime.channelStatus (b : Byte) : IgnoresRealTime (channelStatus b) := by
  intro cap p r
  simp only [channelStatus_eq, IgnoresRealTime.sysexEnd cap p r]

theorem IgnoresRealTime.sysexStart : IgnoresRealTime sysexStart := fun _ _ _ => rfl

theorem IgnoresRealTime.dataByte (b : Byte) : IgnoresRealTime (dataByte b) := by
  intro cap p r
  simp only [Machine.dataByte]
  split
  · rfl
  · split
    · rfl
    · split
      · split <;> rfl
      · rfl

end SerialParser

/-- Every byte below `0xF8` runs a procedure that ignores `rt_*`. -/
theorem exec_byte_ignoresRealTime {b : Byte} (hb : b < 0xF8#8) :
    ∃ f, (∀ s, exec (decodeSerial b) s = s.stepSerial f) ∧ SerialParser.IgnoresRealTime f := by
  rcases decodeSerial_cases b with ⟨hd, -⟩ | ⟨h1, h2, -⟩ | ⟨rfl, -⟩ | ⟨h1, h2, -⟩ | ⟨rfl, -⟩ | ⟨hge, -⟩
  · exact ⟨_, exec_data hd, .dataByte b⟩
  · exact ⟨_, exec_channelStatusByte h1 h2, .channelStatus b⟩
  · exact ⟨_, fun _ => rfl, .sysexStart⟩
  · exact ⟨_, exec_systemCommonByte h1 h2, systemCommon_eq ▸ .channelStatus _⟩
  · exact ⟨_, fun _ => rfl, .sysexEnd⟩
  · exact absurd hge (BitVec.not_le.mpr hb)

/-- Only a real-time delivery, which is no message, shows `rt_*`. -/
theorem filter_isMessage_delivered_cons {p q : SerialParser} {r : RealTimeMessage} {ds ds' : List Delivery}
    (hq : q = { p with rt := r }) (hds : ds.filter Delivery.isMessage = ds'.filter Delivery.isMessage) :
    (p.delivered :: ds).filter Delivery.isMessage = (q.delivered :: ds').filter Delivery.isMessage := by
  subst hq
  obtain ⟨runStatus, cnt, cm, rt, event, sx, resets⟩ := p
  cases event with
  | noMessage => exact hds
  | channelMessage => exact congrArg (channelDelivery cm :: ·) hds
  | sysexMessage => exact congrArg (Delivery.sysex sx.cable (sx.view .serial resets) :: ·) hds
  | realtimeMessage => exact hds

/-- The Serial Parsers of the two states differ in `rt_*` and `event` at most: the simulation relation. -/
structure SameMessages (s s' : State) : Prop where
  cfg : s'.cfg = s.cfg
  serial : ∃ e r, s'.serial = { s.serial with event := e, rt := r }

namespace SameMessages

variable {s s' : State} {b : Byte}

/-- A real-time byte is a step of the one run alone, and delivers no message. -/
theorem step_realTime (h : SameMessages s s') (hb : 0xF8#8 ≤ b) :
    ∃ t, exec (decodeSerial b) s = .next t ∧ t.serial.delivered.isMessage = false ∧ SameMessages t s' := by
  obtain ⟨hcfg, e, r, hserial⟩ := h
  exact ⟨_, exec_realTimeByte hb s, rfl, hcfg, e, r, hserial⟩

/-- Any other byte is a step of both runs, which start it with no event and leave `rt_*` out of it. -/
theorem step_both (h : SameMessages s s') (hb : b < 0xF8#8) :
    ∃ t t', exec (decodeSerial b) s = .next t ∧ exec (decodeSerial b) s' = .next t' ∧
      (∃ r, t'.serial = { t.serial with rt := r }) ∧ SameMessages t t' := by
  obtain ⟨hcfg, e, r, hserial⟩ := h
  obtain ⟨f, hf, hrt⟩ := exec_byte_ignoresRealTime hb
  have hstep : f s'.cfg.sysexBufferSize (s'.serial.emit .noMessage) =
      { f s.cfg.sysexBufferSize (s.serial.emit .noMessage) with rt := r } := by
    rw [hcfg, hserial]
    exact hrt _ (s.serial.emit .noMessage) r
  exact ⟨_, _, hf s, hf s', ⟨r, hstep⟩, hcfg, _, r, hstep⟩

/-- The run of a stream and the run of its bytes below `0xF8` deliver the same messages. -/
theorem serialTrace_filter (h : SameMessages s s') (bs : List Byte) : ∃ ds t ds' t',
    serialTrace s bs = some (ds, t) ∧ serialTrace s' (bs.filter (fun b => b < 0xF8#8)) = some (ds', t') ∧
    ds.filter Delivery.isMessage = ds'.filter Delivery.isMessage ∧ SameMessages t t' := by
  induction bs generalizing s s' with
  | nil => exact ⟨[], s, [], s', rfl, rfl, rfl, h⟩
  | cons b bs ih =>
    by_cases hb : b < 0xF8#8
    · obtain ⟨t, t', he, he', ⟨r, hr⟩, hstep⟩ := h.step_both hb
      obtain ⟨ds, u, ds', u', htrace, htrace', hds, hend⟩ := ih hstep
      refine ⟨_, u, t'.serial.delivered :: ds', u', serialTrace_cons_eq_some he htrace, ?_, ?_, hend⟩
      · rw [List.filter_cons_of_pos (by simpa using hb)]
        exact serialTrace_cons_eq_some he' htrace'
      · exact filter_isMessage_delivered_cons hr hds
    · obtain ⟨t, he, hnot, hstep⟩ := h.step_realTime (BitVec.not_lt.mp hb)
      obtain ⟨ds, u, ds', u', htrace, htrace', hds, hend⟩ := ih hstep
      refine ⟨_, u, ds', u', serialTrace_cons_eq_some he htrace, ?_, ?_, hend⟩
      · rw [List.filter_cons_of_neg (by simpa using hb)]
        exact htrace'
      · rw [List.filter_cons_of_neg (by simp [hnot]), hds]

end SameMessages

end Sys2Proof.Machine
end

section
/-! SUPPORT. What streams of bytes deliver, put together from the steps of their bytes. -/

namespace Sys2Proof.Machine

/-- Two streams one after the other. -/
theorem serialTrace_append {s t u : State} {bs bs' : List Byte} {ds ds' : List Delivery}
    (h : serialTrace s bs = some (ds, t)) (h' : serialTrace t bs' = some (ds', u)) :
    serialTrace s (bs ++ bs') = some (ds ++ ds', u) := by
  induction bs generalizing s ds with
  | nil => cases h; exact h'
  | cons b bs ih =>
    obtain ⟨f, hf⟩ := exec_serial (decodeSerial_agent b)
    rw [serialTrace_cons (hf s)] at h
    obtain ⟨⟨dr, r⟩, hrest, heq⟩ := Option.map_eq_some_iff.mp h
    cases heq
    exact serialTrace_cons_eq_some (hf s) (ih hrest)

/-- From every state with the parameter `c` whose Serial Parser meets `P`, the stream `bs` delivers `ds` and leaves a
Serial Parser that meets `Q`. -/
def Delivers (c : Config) (P : SerialParser → Prop) (bs : List Byte) (ds : List Delivery)
    (Q : SerialParser → Prop) : Prop :=
  ∀ s : State, s.cfg = c → P s.serial → ∃ t, serialTrace s bs = some (ds, t) ∧ t.cfg = c ∧ Q t.serial

/-- A channel message of the running status `h` is about to begin. -/
structure SerialParser.Awaits (h : Byte) (p : SerialParser) : Prop where
  state : controlState p = .chan
  running : p.runStatus = h
  cnt : p.cnt = false

/-- The byte `x`, the first of the two of a message of the running status `h`, is held. -/
structure SerialParser.Holds (h x : Byte) (p : SerialParser) : Prop where
  state : controlState p = .chan
  running : p.runStatus = h
  cnt : p.cnt = true
  data1 : p.cm.data1 = x

/-- A message is open on cable 0 and `bs` have been pushed to it. -/
structure SerialParser.Collects (cap : Nat) (bs : List Byte) (p : SerialParser) : Prop where
  state : controlState p = .sysex
  cnt : p.cnt = false
  sx : ∃ a : SxAccumulator, p.sx = (a.opened 0#4).pushAll cap bs

theorem SerialParser.Awaits.closed {h : Byte} {p : SerialParser} (hp : p.Awaits h) : p.sx.collecting = false :=
  (controlState_eq_chan.mp hp.state).1

theorem SerialParser.Holds.closed {h x : Byte} {p : SerialParser} (hp : p.Holds h x) : p.sx.collecting = false :=
  (controlState_eq_chan.mp hp.state).1

theorem awaits_channelStatus {h : Byte} (hn : (ndata h).isSome = true) (cap : Nat) (p : SerialParser) :
    (channelStatus h cap p).Awaits h := by
  obtain ⟨n, hn⟩ := Option.isSome_iff_exists.mp hn
  exact ⟨controlState_channelStatus cap (ne_zero_of_ndata hn), rfl, rfl⟩

/-- A header that ends no message delivers nothing. -/
theorem channelStatus_delivered_of_closed (h : Byte) (cap : Nat) {p : SerialParser} (hc : p.sx.collecting = false) :
    (channelStatus h cap (p.emit .noMessage)).delivered = .nothing := by
  rw [channelStatus_of_closed h cap (p := p.emit .noMessage) hc]; rfl

/-- A header that ends a message delivers it (R101). -/
theorem channelStatus_delivered_of_open (h : Byte) (cap : Nat) {p : SerialParser} (ho : p.sx.collecting = true) :
    (channelStatus h cap (p.emit .noMessage)).delivered =
      .sysex p.sx.cable ((p.sx.finish cap).view .serial p.resets) := by
  rw [channelStatus_of_open h cap (p := p.emit .noMessage) ho, ← p.sx.finish_cable (cap := cap)]; rfl

section Collects
variable {cap : Nat} {bs : List Byte} {p : SerialParser}

theorem SerialParser.Collects.len (hp : p.Collects cap bs) : p.sx.len = min bs.length cap := by
  obtain ⟨a, ha⟩ := hp.sx
  rw [ha, SxAccumulator.opened_pushAll_len]

theorem SerialParser.Collects.read (hp : p.Collects cap bs) {i : Nat} (hi : i < bs.length) (hcap : i < cap) :
    p.sx.buf.read i = some bs[i] := by
  obtain ⟨a, ha⟩ := hp.sx
  rw [ha, (a.opened 0#4).pushAll_read (Nat.zero_le cap), if_pos (by simp [hi, hcap])]
  simp

end Collects

namespace Delivers

variable {c : Config} {P Q R : SerialParser → Prop} {b h x y : Byte} {bs bs' : List Byte} {ds ds' : List Delivery}

theorem append (h : Delivers c P bs ds Q) (h' : Delivers c Q bs' ds' R) : Delivers c P (bs ++ bs') (ds ++ ds') R := by
  intro s hcfg hs
  obtain ⟨t, htrace, hcfg, ht⟩ := h s hcfg hs
  obtain ⟨u, htrace', hcfg, hu⟩ := h' t hcfg ht
  exact ⟨u, serialTrace_append htrace htrace', hcfg, hu⟩

theorem weaken (h : Delivers c P bs ds Q) (hQ : ∀ p, Q p → R p) : Delivers c P bs ds R := by
  intro s hcfg hs
  obtain ⟨t, htrace, hcfg, ht⟩ := h s hcfg hs
  exact ⟨t, htrace, hcfg, hQ _ ht⟩

/-- One byte: its procedure is started with no event. -/
theorem byte {f : Nat → SerialParser → SerialParser} {d : Delivery}
    (hf : ∀ s, exec (decodeSerial b) s = s.stepSerial f)
    (h : ∀ p, P p → (f c.sysexBufferSize (p.emit .noMessage)).delivered = d ∧
      Q (f c.sysexBufferSize (p.emit .noMessage))) : Delivers c P [b] [d] Q := by
  intro s hcfg hs
  obtain ⟨hd, hq⟩ := h s.serial hs
  subst hcfg
  have htrace := serialTrace_cons_eq_some (bs := []) (hf s) rfl
  rw [hd] at htrace
  exact ⟨_, htrace, rfl, hq⟩

/-- A header from any state; what it delivers is the message it ends. -/
theorem header (hn : (ndata h).isSome = true) (q : SerialParser) : Delivers c (· = q) [h]
    [(channelStatus h c.sysexBufferSize (q.emit .noMessage)).delivered] (·.Awaits h) :=
  byte (exec_header hn) fun p hp => ⟨by rw [hp], awaits_channelStatus hn _ _⟩

/-- A header with no message open. -/
theorem header_of_closed (hn : (ndata h).isSome = true) :
    Delivers c (·.sx.collecting = false) [h] [.nothing] (·.Awaits h) :=
  byte (exec_header hn) fun _ hp => ⟨channelStatus_delivered_of_closed h _ hp, awaits_channelStatus hn _ _⟩

/-- The first of two data bytes. -/
theorem first (h2 : ndata h = some 2) (hx : x < 0x80#8) : Delivers c (·.Awaits h) [x] [.nothing] (·.Holds h x) := by
  refine byte (exec_data hx) fun p hp => ?_
  rw [dataByte_of_first x _ (p := p.emit .noMessage) hp.closed (hp.running ▸ h2) hp.cnt]
  exact ⟨rfl, hp.state, hp.running, rfl, rfl⟩

/-- The second of two data bytes completes the message, and the header stays the running status. -/
theorem second (h2 : ndata h = some 2) (hy : y < 0x80#8) :
    Delivers c (·.Holds h x) [y] [.channel h x (some y) 0#4] (·.Awaits h) := by
  refine byte (exec_data hy) fun p hp => ?_
  rw [dataByte_of_second y _ (p := p.emit .noMessage) hp.closed (hp.running ▸ h2) hp.cnt]
  refine ⟨?_, hp.state, hp.running, rfl⟩
  simp [SerialParser.delivered, deliveryOf, channelDelivery, hp.running, hp.data1, h2]

/-- The one data byte of its type completes the message. -/
theorem single (h1 : ndata h = some 1) (hx : x < 0x80#8) :
    Delivers c (·.Awaits h) [x] [.channel h x none 0#4] (·.Awaits h) := by
  refine byte (exec_data hx) fun p hp => ?_
  rw [dataByte_of_single x _ (p := p.emit .noMessage) hp.closed (hp.running ▸ h1)]
  refine ⟨?_, hp.state, hp.running, hp.cnt⟩
  simp [SerialParser.delivered, deliveryOf, channelDelivery, hp.running, h1]

/-- Both data bytes of a message of the running status (R129). -/
theorem pair (h2 : ndata h = some 2) (hx : x < 0x80#8) (hy : y < 0x80#8) :
    Delivers c (·.Awaits h) [x, y] [.nothing, .channel h x (some y) 0#4] (·.Awaits h) :=
  (first h2 hx).append (second h2 hy)

/-- A header and the first of its two data bytes, from any state. -/
theorem partialMessage (h2 : ndata h = some 2) (hx : x < 0x80#8) (q : SerialParser) : Delivers c (· = q) [h, x]
    [(channelStatus h c.sysexBufferSize (q.emit .noMessage)).delivered, .nothing] (·.Holds h x) :=
  (header (Option.isSome_of_eq_some h2) q).append (first h2 hx)

/-- A stray terminator keeps the partial message (R111 (a)). -/
theorem strayEnd : Delivers c (·.Holds h x) [0xF7#8] [.nothing] (·.Holds h x) := by
  refine byte (f := sysexEnd) (fun _ => rfl) fun p hp => ?_
  rw [sysexEnd_of_closed _ (p := p.emit .noMessage) hp.closed]
  exact ⟨rfl, hp.state, hp.running, hp.cnt, hp.data1⟩

/-- A real-time byte keeps the partial message (R119 (b)). -/
theorem realTime (hb : 0xF8#8 ≤ b) : Delivers c (·.Holds h x) [b] [.realTime b 0#4] (·.Holds h x) :=
  byte (exec_realTimeByte hb) fun _ hp => ⟨rfl, hp.state, hp.running, hp.cnt, hp.data1⟩

/-- A system common byte with no message open (R112). -/
theorem systemCommon (h1 : 0xF1#8 ≤ b) (h2 : b ≤ 0xF6#8) :
    Delivers c (·.sx.collecting = false) [b] [.nothing] (controlState · = .idle) :=
  byte (exec_systemCommonByte h1 h2) fun _ hp =>
    ⟨channelStatus_delivered_of_closed _ _ hp, controlState_systemCommon _ _⟩

/-- In `IDLE` a data byte is ignored. -/
theorem dataInIdle (hx : x < 0x80#8) : Delivers c (controlState · = .idle) [x] [.nothing] (controlState · = .idle) := by
  refine byte (exec_data hx) fun p hp => ?_
  obtain ⟨hc, hr⟩ := controlState_eq_idle.mp hp
  rw [dataByte_of_idle x _ (p := p.emit .noMessage) hc hr]
  exact ⟨rfl, hp⟩

/-- `0xF0` opens a message from any state, dropping what was there (R110). -/
theorem sysexStart : Delivers c P [0xF0#8] [.nothing] (·.Collects c.sysexBufferSize [0xF0#8]) :=
  byte (f := Machine.sysexStart) (fun _ => rfl) fun p _ => ⟨rfl, controlState_sysexStart _ _, rfl, p.sx, rfl⟩

/-- A data byte is pushed to the open message. -/
theorem dataInSysex (hx : x < 0x80#8) : Delivers c (·.Collects c.sysexBufferSize bs) [x] [.nothing]
    (·.Collects c.sysexBufferSize (bs ++ [x])) := by
  refine byte (exec_data hx) fun p hp => ?_
  obtain ⟨a, ha⟩ := hp.sx
  have ho := controlState_eq_sysex.mp hp.state
  rw [dataByte_of_open x _ (p := p.emit .noMessage) ho]
  refine ⟨rfl, controlState_eq_sysex.mpr (by simp [ho]), hp.cnt, a, ?_⟩
  rw [SxAccumulator.pushAll_append, ← ha]; rfl

end Delivers

end Sys2Proof.Machine
end

section
/-! SUPPORT. Running status after a channel message (R129), and streams with no message open and no start: they leave
the accumulator of their parser alone (`95_test_vectors.md` Q5). -/

namespace Sys2Proof.Machine

/-! ### After a channel message -/

section ChannelMessage
variable {b : Byte} {cap : Nat} {p : SerialParser}

theorem sysexEnd_event_ne_channelMessage (hev : p.event = .noMessage) :
    (sysexEnd cap p).event ≠ .channelMessage := by
  rw [sysexEnd_event hev]
  split <;> decide

/-- Of the procedures of the bytes only `DATA` emits `CHANNEL_MESSAGE`. -/
theorem lt_of_exec_channelMessage {s t : State} (he : exec (decodeSerial b) s = .next t)
    (hev : t.serial.event = .channelMessage) : b < 0x80#8 := by
  have emits {f} (hx : exec (decodeSerial b) s = s.stepSerial f) :
      (f s.cfg.sysexBufferSize (s.serial.emit .noMessage)).event = .channelMessage := by
    rw [← serial_eq_of_exec hx he, hev]
  rcases exec_serial_class b s with ⟨hb, -⟩ | ⟨-, -, -, hx⟩ | ⟨-, hx⟩ | ⟨-, -, hx⟩ | ⟨-, hx⟩ | ⟨-, hx⟩
  · exact hb
  · exact absurd (emits hx) (sysexEnd_event_ne_channelMessage rfl)
  · exact absurd (emits hx) nofun
  · exact absurd (emits hx) (sysexEnd_event_ne_channelMessage rfl)
  · exact absurd (emits hx) (sysexEnd_event_ne_channelMessage rfl)
  · exact absurd (emits hx) nofun

/-- Under the invariant, both emitting arms of `DATA` leave the header as running status and `cnt` at 0. -/
theorem awaits_of_channelMessage (h : p.Inv cap) (hev : p.event = .noMessage)
    (hm : (dataByte b cap p).event = .channelMessage) :
    (dataByte b cap p).Awaits (dataByte b cap p).cm.header := by
  have hs : controlState p = .chan := by
    by_contra hne
    exact absurd ((dataByte_event_of_not_chan hev hne).symm.trans hm) (by decide)
  obtain ⟨hc, hr⟩ := controlState_eq_chan.mp hs
  rcases ndata_eq_one_or_two (h.ndata_isSome hr) with h1 | h2
  · rw [dataByte_of_single b cap hc h1]
    exact ⟨hs, rfl, h.cnt_of_single h1⟩
  · cases hcnt : p.cnt with
    | false =>
      rw [dataByte_of_first b cap hc h2 hcnt] at hm
      exact absurd (hev.symm.trans hm) (by decide)
    | true =>
      rw [dataByte_of_second b cap hc h2 hcnt]
      exact ⟨hs, rfl, rfl⟩

end ChannelMessage

/-! ### No message open and no start -/

/-- Only the event `SYSEX_MESSAGE` delivers a SysEx message. -/
theorem isSysex_deliveryOf {g : Agent} {n : Nat} {e : Event} {cm : ChannelMessage} {rt : RealTimeMessage}
    {a : SxAccumulator} (he : e ≠ .sysexMessage) : (deliveryOf g n e cm rt a).isSysex = false := by
  cases e with
  | sysexMessage => exact absurd rfl he
  | _ => rfl

/-- With no message open, every byte but `0xF0` leaves the accumulator alone and delivers no SysEx message. -/
theorem exec_byte_of_closed {s : State} {b : Byte} (hc : s.serial.sx.collecting = false) (hb : b ≠ 0xF0#8) :
    ∃ t, exec (decodeSerial b) s = .next t ∧ t.serial.sx = s.serial.sx ∧ t.serial.delivered.isSysex = false := by
  have keeps {f} (hx : exec (decodeSerial b) s = s.stepSerial f)
      (hsx : (f s.cfg.sysexBufferSize (s.serial.emit .noMessage)).sx = s.serial.sx) :
      ∃ t, exec (decodeSerial b) s = .next t ∧ t.serial.sx = s.serial.sx ∧ t.serial.delivered.isSysex = false := by
    refine ⟨_, hx, hsx, isSysex_deliveryOf fun hev => ?_⟩
    obtain ⟨ho, -⟩ := exec_byte_finishes hx hev
    exact absurd (ho.symm.trans hc) (by decide)
  rcases exec_serial_class b s with ⟨-, hx⟩ | ⟨-, -, -, hx⟩ | ⟨rfl, -⟩ | ⟨-, -, hx⟩ | ⟨-, hx⟩ | ⟨-, hx⟩
  · exact keeps hx ((dataByte_storesOne b _ _).closed hc)
  · exact keeps hx ((sysexEnd_storesOne _ _).closed hc)
  · exact absurd rfl hb
  · exact keeps hx ((sysexEnd_storesOne _ _).closed hc)
  · exact keeps hx ((sysexEnd_storesOne _ _).closed hc)
  · exact keeps hx rfl

theorem serialTrace_of_closed {s : State} {bs : List Byte} (hc : s.serial.sx.collecting = false)
    (hbs : 0xF0#8 ∉ bs) : ∃ ds t, serialTrace s bs = some (ds, t) ∧ (∀ d ∈ ds, d.isSysex = false) ∧
      t.serial.sx = s.serial.sx := by
  induction bs generalizing s with
  | nil => exact ⟨[], s, rfl, by simp, rfl⟩
  | cons b bs ih =>
    obtain ⟨hb, hbs⟩ := List.ne_and_not_mem_of_not_mem_cons hbs
    obtain ⟨t, he, hsx, hd⟩ := exec_byte_of_closed hc hb.symm
    obtain ⟨ds, u, htrace, hds, hsx'⟩ := ih (by rw [hsx, hc]) hbs
    exact ⟨_, u, serialTrace_cons_eq_some he htrace, List.forall_mem_cons.mpr ⟨hd, hds⟩, hsx'.trans hsx⟩

/-- The procedure of a packet, started with no event and no message open, leaves the accumulator alone and does not
emit `SYSEX_MESSAGE`. -/
def UsbParser.KeepsClosed (f : Nat → UsbParser → UsbParser) : Prop :=
  ∀ cap p, p.event = .noMessage → p.sx.collecting = false → (f cap p).sx = p.sx ∧ (f cap p).event ≠ .sysexMessage

namespace UsbParser

variable {cn : Nibble} {p1 p2 p3 : Byte} {rest : List Byte}

theorem KeepsClosed.ignoredPacket : KeepsClosed ignoredPacket := fun _ _ hev _ =>
  ⟨rfl, by simp [Machine.ignoredPacket, hev]⟩

theorem KeepsClosed.channelPacket : KeepsClosed (channelPacket cn p1 p2 p3) := fun _ _ _ _ => ⟨rfl, nofun⟩

theorem KeepsClosed.singleByte : KeepsClosed (singleByte cn p1) := fun _ _ _ _ => ⟨rfl, nofun⟩

/-- A continuation without a start is ignored. -/
theorem KeepsClosed.sysexStartCont (h1 : p1 ≠ 0xF0#8) : KeepsClosed (sysexStartCont cn p1 p2 p3) := by
  intro cap p hev hc
  simp [Machine.sysexStartCont, h1, openOn, hc, hev]

/-- Code index 5 without an open message is ignored or delivers a single byte. -/
theorem KeepsClosed.sysexEndOne : KeepsClosed (sysexEndOne cn p1) := by
  intro cap p hev hc
  by_cases h1 : p1 = 0xF7#8 <;> simp [Machine.sysexEndOne, h1, openOn, hc, hev]

/-- An end without a start is ignored. -/
theorem KeepsClosed.sysexEndWith (h1 : p1 ≠ 0xF0#8) : KeepsClosed (sysexEndWith cn p1 rest) := by
  intro cap p hev hc
  simp [Machine.sysexEndWith, h1, openOn, hc, hev]

end UsbParser

/-- With no message open, every packet but a start leaves the accumulator alone and delivers no SysEx message. -/
theorem exec_packet_of_closed {s : State} {w : PacketWord} (hc : s.usb.sx.collecting = false)
    (hw : loNibble (packetByte w 0) ∈ [0x4#4, 0x6#4, 0x7#4] → packetByte w 1 ≠ 0xF0#8) :
    ∃ t, exec (decodePacket w) s = .next t ∧ t.usb.sx = s.usb.sx ∧ t.usb.delivered.isSysex = false := by
  have keeps {f} (hx : exec (decodePacket w) s = s.stepUsb f) (hf : UsbParser.KeepsClosed f) :
      ∃ t, exec (decodePacket w) s = .next t ∧ t.usb.sx = s.usb.sx ∧ t.usb.delivered.isSysex = false := by
    obtain ⟨hsx, hev⟩ := hf s.cfg.sysexBufferSize (s.usb.emit .noMessage) rfl hc
    exact ⟨_, hx, hsx, isSysex_deliveryOf hev⟩
  rw [decodePacket_eq] at keeps ⊢
  rcases exec_usb_class (hiNibble (packetByte w 0)) (loNibble (packetByte w 0)) (packetByte w 1) (packetByte w 2)
    (packetByte w 3) s with
    ⟨-, hx⟩ | ⟨hcin, hx⟩ | ⟨-, hx⟩ | ⟨hcin, hx⟩ | ⟨hcin, hx⟩ | ⟨-, -, hx⟩ | ⟨-, hx⟩
  · exact keeps hx .ignoredPacket
  · exact keeps hx (.sysexStartCont (hw (by simp [hcin])))
  · exact keeps hx .sysexEndOne
  · exact keeps hx (.sysexEndWith (hw (by simp [hcin])))
  · exact keeps hx (.sysexEndWith (hw (by simp [hcin])))
  · exact keeps hx .channelPacket
  · exact keeps hx .singleByte

theorem usbTrace_of_closed {s : State} {ws : List PacketWord} (hc : s.usb.sx.collecting = false)
    (hws : ∀ w ∈ ws, loNibble (packetByte w 0) ∈ [0x4#4, 0x6#4, 0x7#4] → packetByte w 1 ≠ 0xF0#8) :
    ∃ ds t, usbTrace s ws = some (ds, t) ∧ (∀ d ∈ ds, d.isSysex = false) ∧ t.usb.sx = s.usb.sx := by
  induction ws generalizing s with
  | nil => exact ⟨[], s, rfl, by simp, rfl⟩
  | cons w ws ih =>
    obtain ⟨hw, hws⟩ := List.forall_mem_cons.mp hws
    obtain ⟨t, he, hsx, hd⟩ := exec_packet_of_closed hc hw
    obtain ⟨ds, u, htrace, hds, hsx'⟩ := ih (by rw [hsx, hc]) hws
    refine ⟨_, u, ?_, List.forall_mem_cons.mpr ⟨hd, hds⟩, hsx'.trans hsx⟩
    rw [usbTrace_cons he, htrace]; rfl

end Sys2Proof.Machine
end

section
/-! The statements of `41_serial_parser.md`: the result of each serial operation, the transition table, and what
streams of bytes deliver. -/

namespace Sys2Proof.Machine

/-- Settles O55: the run of the stream simulates the run without the real-time bytes
(`SameMessages.serialTrace_filter`). -/
theorem realTimeBytesAreTransparent : Obligations.RealTimeBytesAreTransparent := by
  intro s bs
  have hsame : SameMessages s s := ⟨rfl, s.serial.event, s.serial.rt, rfl⟩
  obtain ⟨ds, t, ds', t', htrace, htrace', hds, hend⟩ := hsame.serialTrace_filter bs
  obtain ⟨e, r, hserial⟩ := hend.serial
  exact ⟨ds, t, ds', t', htrace, htrace', hds, by simp [hserial], by simp [hserial], by simp [hserial],
    by simp [hserial]⟩

/-- Settles O44: each clause is the procedure of its class of bytes, started with no event in the same control
state. -/
theorem serialTransitionTable : Obligations.SerialTransitionTable := by
  intro s b hinv
  obtain ⟨f, hf⟩ := exec_serial (decodeSerial_agent b)
  obtain ⟨t, he⟩ : ∃ t, exec (decodeSerial b) s = .next t := ⟨_, hf s⟩
  refine ⟨t, he, fun hb => ?_, fun h1 h2 => ?_, ?_, fun h1 h2 => ?_, ?_, fun hb => ?_⟩
  · rw [serial_eq_of_exec (exec_data hb s) he]
    refine ⟨controlState_dataByte _ _ _, fun hs => dataByte_event_of_not_chan rfl hs, fun hs hcnt h2 => ?_,
      fun hs hcnt => ?_, fun hs h1 => ?_⟩
    · obtain ⟨hc, -⟩ := controlState_eq_chan.mp hs
      rw [dataByte_of_first b _ (p := s.serial.emit .noMessage) hc h2 hcnt]
      exact ⟨rfl, rfl⟩
    · obtain ⟨h2, hc, -⟩ := hinv.held hcnt
      rw [dataByte_of_second b _ (p := s.serial.emit .noMessage) hc h2 hcnt]
      exact ⟨rfl, rfl⟩
    · obtain ⟨hc, -⟩ := controlState_eq_chan.mp hs
      rw [dataByte_of_single b _ (p := s.serial.emit .noMessage) hc h1]
      exact ⟨hinv.cnt_of_single h1, rfl⟩
  · rw [serial_eq_of_exec (exec_channelStatusByte h1 h2 s) he]
    have hb := awaits_channelStatus (SerialParser.ndata_isSome_of_status h1 h2) s.cfg.sysexBufferSize
      (s.serial.emit .noMessage)
    exact ⟨hb.state, hb.cnt, channelStatus_event rfl⟩
  · rintro rfl
    rw [serial_eq_of_exec (f := sysexStart) rfl he]
    exact ⟨controlState_sysexStart _ _, rfl⟩
  · rw [serial_eq_of_exec (exec_systemCommonByte h1 h2 s) he]
    exact ⟨controlState_systemCommon _ _, channelStatus_event rfl⟩
  · rintro rfl
    rw [serial_eq_of_exec (f := sysexEnd) rfl he]
    refine ⟨fun hs => ?_, fun hs => ?_⟩
    · have hr := hinv.exclusive (controlState_eq_sysex.mp hs)
      exact ⟨controlState_sysexEnd_of_no_runStatus _ hr, (sysexEnd_event rfl).trans (if_pos hs)⟩
    · have hc : s.serial.sx.collecting = false := by simpa [controlState_eq_sysex] using hs
      rw [sysexEnd_of_closed _ (p := s.serial.emit .noMessage) hc]
      exact ⟨rfl, rfl, rfl⟩
  · rw [serial_eq_of_exec (exec_realTimeByte hb s) he]
    exact ⟨rfl, rfl, rfl⟩

/-- Settles O51: a header, from any state, then the two data bytes of the running status it leaves. -/
theorem twoDataByteMessageFromAnyState : Obligations.TwoDataByteMessageFromAnyState := by
  intro s h x y h2 hx hy
  obtain ⟨t, htrace, -, ht⟩ :=
    ((Delivers.header (Option.isSome_of_eq_some h2) s.serial).append (.pair h2 hx hy)) s rfl rfl
  exact ⟨_, t, htrace, channelStatus_delivered_of_closed h _, channelStatus_delivered_of_open h _,
    ht.running, ht.cnt, ht.state⟩

/-- Settles O52: a header, from any state, then the one data byte of the running status it leaves. -/
theorem oneDataByteMessageFromAnyState : Obligations.OneDataByteMessageFromAnyState := by
  intro s h x h1 hx
  obtain ⟨t, htrace, -, ht⟩ :=
    ((Delivers.header (Option.isSome_of_eq_some h1) s.serial).append (.single h1 hx)) s rfl rfl
  exact ⟨_, t, htrace, ht.running, ht.cnt, ht.state⟩

/-- Settles O53: the channel message comes from `DATA`, which leaves its header as running status
(`awaits_of_channelMessage`). -/
theorem runningStatusRepeatsTheHeader : Obligations.RunningStatusRepeatsTheHeader := by
  intro s t b hinv he hev
  have hb := lt_of_exec_channelMessage he hev
  have ht : t.serial.Awaits t.serial.cm.header := by
    rw [serial_eq_of_exec (exec_data hb s) he] at hev ⊢
    exact awaits_of_channelMessage hinv.clearEvent rfl hev
  refine ⟨ht.state, ht.cnt, ht.running, fun x y h2 hx hy => ?_, fun x h1 hx => ?_⟩
  · obtain ⟨u, htrace, -⟩ := Delivers.pair h2 hx hy t rfl ht
    exact ⟨u, htrace⟩
  · obtain ⟨u, htrace, -⟩ := Delivers.single h1 hx t rfl ht
    exact ⟨u, htrace⟩

/-- Settles O54: the header and its first data byte from any state (`Delivers.partialMessage`), then each class of
status bytes from the state that holds the byte, and the data bytes after it. -/
theorem partialMessagesAreDroppedOnlyByStatusBytes : Obligations.PartialMessagesAreDroppedOnlyByStatusBytes := by
  intro s h x y z h2 hx hy hz
  have hpart := Delivers.partialMessage (c := s.cfg) h2 hx s.serial
  have hdrop := hpart.weaken fun _ hp => hp.closed
  refine ⟨fun k hk => ?_, fun k hk => ?_, ?_, fun k h1 h6 => ?_, ?_, fun r hr => ?_⟩
  · obtain ⟨t, htrace, -, -⟩ :=
      hdrop.append ((Delivers.header_of_closed (Option.isSome_of_eq_some hk)).append (.pair hk hy hz)) s rfl rfl
    exact ⟨_, t, htrace⟩
  · obtain ⟨t, htrace, -, -⟩ :=
      hdrop.append ((Delivers.header_of_closed (Option.isSome_of_eq_some hk)).append (.single hk hy)) s rfl rfl
    exact ⟨_, t, htrace⟩
  · obtain ⟨t, htrace, -, ht⟩ := hdrop.append (Delivers.sysexStart.append (.dataInSysex hy)) s rfl rfl
    exact ⟨_, t, htrace, ht.state, ht.cnt, ht.len, ht.read (i := 0) (by simp) s.cfg.one_le_sysexBufferSize,
      fun hcap => ht.read (i := 1) (by simp) hcap⟩
  · obtain ⟨t, htrace, -, ht⟩ := hdrop.append
      ((Delivers.systemCommon h1 h6).append ((Delivers.dataInIdle hy).append (.dataInIdle hz))) s rfl rfl
    exact ⟨_, t, htrace, ht⟩
  · obtain ⟨t, htrace, -, -⟩ := hpart.append (Delivers.strayEnd.append (.second h2 hy)) s rfl rfl
    exact ⟨_, t, htrace⟩
  · obtain ⟨t, htrace, -, -⟩ := hpart.append ((Delivers.realTime hr).append (.second h2 hy)) s rfl rfl
    exact ⟨_, t, htrace⟩

/-- Settles O56: with no message open, a step that is no start leaves the accumulator alone, so none is open after
it either. -/
theorem noSysexWithoutAStart : Obligations.NoSysexWithoutAStart :=
  ⟨fun _ _ hc hbs => serialTrace_of_closed hc hbs, fun _ _ hc hws => usbTrace_of_closed hc hws⟩

/-- Settles O23: `CHANNEL_STATUS` with a message open and with none. -/
theorem channelStatusResult : Obligations.ChannelStatusResult := by
  intro s c x hx
  have he := exec_channelStatus hx s
  exact ⟨fun hc => he.trans (stepSerial_eq_of_procedure (channelStatus_of_closed x.2 _ hc)),
    fun ho => he.trans (stepSerial_eq_of_procedure (channelStatus_of_open x.2 _ ho)),
    _, he, controlState_channelStatus _ (ne_zero_of_mem_channelStatusOps hx)⟩

/-- Settles O24: the arms of `DATA`, which writes neither `run_status` nor `sx_collecting`. -/
theorem dataByteResult : Obligations.DataByteResult := by
  intro s b
  exact ⟨fun ho => stepSerial_eq_of_procedure (dataByte_of_open b _ ho),
    fun hc hr => stepSerial_eq_of_procedure (dataByte_of_idle b _ hc hr),
    fun hc h2 hcnt => stepSerial_eq_of_procedure (dataByte_of_first b _ hc h2 hcnt),
    fun hc h2 hcnt => stepSerial_eq_of_procedure (dataByte_of_second b _ hc h2 hcnt),
    fun hc h1 => stepSerial_eq_of_procedure (dataByte_of_single b _ hc h1),
    _, rfl, dataByte_runStatus _ _ _, controlState_dataByte _ _ _⟩

/-- Settles O25: `SYSEX_START` has one arm. -/
theorem sysexStartResult : Obligations.SysexStartResult := fun _ => ⟨rfl, _, rfl, controlState_sysexStart _ _⟩

/-- Settles O26: `SYSEX_END` with a message open and with none. -/
theorem sysexEndResult : Obligations.SysexEndResult := by
  intro s
  exact ⟨fun ho => stepSerial_eq_of_procedure (sysexEnd_of_open _ ho),
    fun hc => stepSerial_eq_of_procedure (sysexEnd_of_closed _ hc),
    _, rfl, fun _ hr => controlState_sysexEnd_of_no_runStatus _ hr,
    fun hc => controlState_sysexEnd_of_closed (p := s.serial.emit .noMessage) _ hc⟩

/-- Settles O27: a system common byte is `CHANNEL_STATUS` with no running status to set (`systemCommon_eq`). -/
theorem systemCommonResult : Obligations.SystemCommonResult := by
  intro s i hi
  have he := exec_systemCommon hi s
  exact ⟨fun hc => he.trans (stepSerial_eq_of_procedure (channelStatus_of_closed 0x00#8 _ hc)),
    fun ho => he.trans (stepSerial_eq_of_procedure (channelStatus_of_open 0x00#8 _ ho)),
    _, he, controlState_systemCommon _ _⟩

/-- Settles O28: `REAL_TIME` has one arm. -/
theorem realTimeResult : Obligations.RealTimeResult := fun s _ hx => exec_realTime hx s

end Sys2Proof.Machine
end

section
/-! SUPPORT. The procedures of the SysEx packets arm by arm (`42_usb_parser.md` R153 to R156), the message a channel
packet of one data byte delivers (R162), and the run of a SysEx message cut into packets (R159). -/

namespace Sys2Proof.Machine

theorem stepUsb_eq_of_procedure {s : State} {f : Nat → UsbParser → UsbParser} {q : UsbParser}
    (h : f s.cfg.sysexBufferSize (s.usb.emit .noMessage) = q) : s.stepUsb f = .next { s with usb := q } := by
  rw [State.stepUsb, h]

/-! ### Each procedure arm by arm -/

section UsbArms
variable {cn : Nibble} {p1 : Byte} (p2 p3 : Byte) (rest : List Byte) (cap : Nat) {p : UsbParser}

theorem sysexStartCont_of_start : sysexStartCont cn 0xF0#8 p2 p3 cap p =
    { p with sx := (p.sx.start cap cn).pushAll cap [p2, p3] } := if_pos rfl

theorem sysexStartCont_of_open (h1 : p1 ≠ 0xF0#8) (ho : openOn p.sx cn = true) : sysexStartCont cn p1 p2 p3 cap p =
    { p with sx := p.sx.pushAll cap [p1, p2, p3] } := by
  rw [sysexStartCont, if_neg h1, if_pos ho]

/-- A continuation of no message of its cable. -/
theorem sysexStartCont_of_not_open (h1 : p1 ≠ 0xF0#8) (ho : ¬ openOn p.sx cn = true) :
    sysexStartCont cn p1 p2 p3 cap p = p := by
  rw [sysexStartCont, if_neg h1, if_neg ho]

theorem sysexEndOne_of_open (ho : openOn p.sx cn = true) : sysexEndOne cn 0xF7#8 cap p =
    { p with sx := p.sx.finish cap, event := .sysexMessage } := by
  rw [sysexEndOne, if_pos rfl, if_pos ho]

/-- A terminator of no message of its cable. -/
theorem sysexEndOne_of_not_open (ho : ¬ openOn p.sx cn = true) : sysexEndOne cn 0xF7#8 cap p = p := by
  rw [sysexEndOne, if_pos rfl, if_neg ho]

/-- Code index 5 with any byte but the terminator is a single-byte message (decision D28). -/
theorem sysexEndOne_of_single (h1 : p1 ≠ 0xF7#8) : sysexEndOne cn p1 = singleByte cn p1 := by
  funext cap p
  rw [sysexEndOne, if_neg h1, singleByte]

theorem sysexEndWith_of_start : sysexEndWith cn 0xF0#8 rest cap p =
    { p with sx := ((p.sx.start cap cn).pushAll cap rest).close, event := .sysexMessage } := if_pos rfl

theorem sysexEndWith_of_open (h1 : p1 ≠ 0xF0#8) (ho : openOn p.sx cn = true) : sysexEndWith cn p1 rest cap p =
    { p with sx := (p.sx.pushAll cap (p1 :: rest)).close, event := .sysexMessage } := by
  rw [sysexEndWith, if_neg h1, if_pos ho]

/-- An end of no message of its cable. -/
theorem sysexEndWith_of_not_open (h1 : p1 ≠ 0xF0#8) (ho : ¬ openOn p.sx cn = true) :
    sysexEndWith cn p1 rest cap p = p := by
  rw [sysexEndWith, if_neg h1, if_neg ho]

end UsbArms

/-! ### Padding of channel packets -/

/-- A message of one data byte is delivered without `data2`. -/
theorem channelDelivery_of_single {h : Byte} (h1 : ndata h = some 1) (x y : Byte) (c : Nibble) :
    channelDelivery ⟨h, x, y, c⟩ = .channel h x none c := by
  simp [channelDelivery, h1]

/-- The types `0xC` and `0xD` have one data byte (`30_encoding.md` R67). -/
theorem ndata_of_headerType {h : Byte} (ht : headerType h ∈ [0xC#4, 0xD#4]) : ndata h = some 1 := by
  rw [← statusByte_nibbles h]
  exact ndata_statusByte_eq_one ht (loNibble h)

/-- Channel packets that differ in `p3` alone, which is padding to a header of one data byte, deliver the same
message. -/
theorem exec_channelPacket_delivered_eq (s : State) (cn : Nibble) (p1 p2 p3 q3 : Byte) {i j : Instr}
    (h1 : ndata p1 = some 1) (hi : i ∈ channelPacketOps cn p1 p2 p3) (hj : j ∈ channelPacketOps cn p1 p2 q3) :
    ∃ t u, exec i s = .next t ∧ exec j s = .next u ∧ t.usb.delivered = u.usb.delivered := by
  refine ⟨_, _, exec_channelPacket hi s, exec_channelPacket hj s, ?_⟩
  rw [channelPacket_delivered, channelPacket_delivered, channelDelivery_of_single h1, channelDelivery_of_single h1]

/-! ### The run of a message cut into packets -/

/-- Below the shorter of the message and the capacity, a message holds the bytes pushed since it was opened. -/
theorem SxAccumulator.opened_pushAll_read {cap i : Nat} (a : SxAccumulator) (cn : Nibble) {vs : List Byte}
    (hi : i < min vs.length cap) : ((a.opened cn).pushAll cap vs).buf.read i = vs[i]? := by
  rw [(a.opened cn).pushAll_read (Nat.zero_le cap), if_pos (by simpa using hi), opened_len, Nat.sub_zero]

/-- More than three bytes begin with a packet of three. -/
theorem packetise_of_three {bs : List Byte} (hbs : bs ≠ []) (cn : Nibble) (x y z : Byte) :
    packetise cn (x :: y :: z :: bs) = packetWord (statusByte cn 0x4#4) x y z :: packetise cn bs := by
  cases bs with
  | nil => exact absurd rfl hbs
  | cons w rest => rfl

/-- The operation of a packet put together from its code index and its payload. -/
theorem decodePacket_of_mem_packetOps {cn : Nibble} {p1 p2 p3 : Byte} {x : Instr × Nibble}
    (hx : x ∈ packetOps cn p1 p2 p3) : decodePacket (packetWord (statusByte cn x.2) p1 p2 p3) = x.1 := by
  rw [decodePacket_packetWord, decodePacketBytes_of_mem_packetOps hx]

section Run
variable {s : State} {cn : Nibble} {x y z : Byte} {ws : List PacketWord} {q : UsbParser}

/-- The first packet of a stream runs its operation, and the rest of the stream is still to come. -/
theorem step_of_usbEdges {i : Instr} {cin : Nibble} {f : Nat → UsbParser → UsbParser}
    (hinput : s.input = usbEdges (packetWord (statusByte cn cin) x y z :: ws)) (hi : (i, cin) ∈ packetOps cn x y z)
    (hf : ∀ s, exec i s = s.stepUsb f) (hq : f s.cfg.sysexBufferSize (s.usb.emit .noMessage) = q) :
    step s = .next { s with usb := q, input := usbEdges ws } := by
  rw [step_of_usb_valid hinput, decodePacket_of_mem_packetOps hi, hf]
  exact stepUsb_eq_of_procedure hq

theorem ne_sysexStart_of_data {d : Byte} (hd : d < 0x80#8) : d ≠ 0xF0#8 := by
  rintro rfl
  exact absurd hd (by decide)

/-- The packets of the rest of a message, after its start: each continues the open message with its bytes, and the
last one, which carries the terminator, closes it. -/
theorem run_packetise_of_open {bs : List Byte} (hbs : ∀ b ∈ bs, b ≠ 0xF0#8) (hlast : bs.getLast? = some 0xF7#8)
    (ho : openOn s.usb.sx cn = true) (hinput : s.input = usbEdges (packetise cn bs)) :
    ∃ t, Host.Core.run Sys2Proof.core (packetise cn bs).length s = .next t ∧ t.usb.event = .sysexMessage ∧
      t.usb.sx = (s.usb.sx.pushAll s.cfg.sysexBufferSize bs).close ∧ t.serial = s.serial := by
  induction bs using packetise.induct generalizing s with
  | case1 => cases hlast
  | case2 x =>
    cases hlast
    exact ⟨_, run_succ (step_of_usbEdges hinput (i := .cin5SysexEnd1 cn 0xF7#8 0#8 0#8) (by simp [packetOps])
      (fun _ => rfl) (sysexEndOne_of_open _ ho)), rfl, rfl, rfl⟩
  | case3 x y =>
    have hx := hbs x (by simp)
    exact ⟨_, run_succ (step_of_usbEdges hinput (i := .cin6SysexEnd2 cn x y 0#8) (by simp [packetOps])
      (fun _ => rfl) (sysexEndWith_of_open [y] _ hx ho)), rfl, rfl, rfl⟩
  | case4 x y z =>
    have hx := hbs x (by simp)
    exact ⟨_, run_succ (step_of_usbEdges hinput (i := .cin7SysexEnd3 cn x y z) (by simp [packetOps])
      (fun _ => rfl) (sysexEndWith_of_open [y, z] _ hx ho)), rfl, rfl, rfl⟩
  | case5 x y z w rest ih =>
    have hx := hbs x (by simp)
    have hstep := step_of_usbEdges hinput (i := .cin4SysexStartCont cn x y z) (by simp [packetOps])
      (fun _ => rfl) (sysexStartCont_of_open y z _ hx ho)
    rw [packetise, List.length_cons, run_succ hstep]
    exact ih (fun b hb => hbs b (.tail _ (.tail _ (.tail _ hb)))) (by simpa using hlast)
      (by simpa [openOn_iff] using ho) rfl

/-- The packets of a whole message: its bytes are pushed to the message just opened on the cable, which is then
closed. -/
theorem run_packetise_sysexBytes {ds : List Byte} (hds : ∀ d ∈ ds, d < 0x80#8)
    (hinput : s.input = usbEdges (packetise cn (sysexBytes ds))) :
    ∃ t, Host.Core.run Sys2Proof.core (packetise cn (sysexBytes ds)).length s = .next t ∧
      t.usb.event = .sysexMessage ∧
      t.usb.sx = ((s.usb.sx.opened cn).pushAll s.cfg.sysexBufferSize (sysexBytes ds)).close ∧
      t.serial = s.serial := by
  match ds with
  | [] =>
    exact ⟨_, run_succ (step_of_usbEdges hinput (i := .cin6SysexEnd2 cn 0xF0#8 0xF7#8 0#8) (by simp [packetOps])
      (fun _ => rfl) (sysexEndWith_of_start [0xF7#8] _)), rfl, rfl, rfl⟩
  | [y] =>
    exact ⟨_, run_succ (step_of_usbEdges hinput (i := .cin7SysexEnd3 cn 0xF0#8 y 0xF7#8) (by simp [packetOps])
      (fun _ => rfl) (sysexEndWith_of_start [y, 0xF7#8] _)), rfl, rfl, rfl⟩
  | y :: z :: ds =>
    have hbytes : sysexBytes (y :: z :: ds) = 0xF0#8 :: y :: z :: (ds ++ [0xF7#8]) := rfl
    rw [hbytes, packetise_of_three (by simp)] at hinput ⊢
    have hstep := step_of_usbEdges hinput (i := .cin4SysexStartCont cn 0xF0#8 y z) (by simp [packetOps])
      (fun _ => rfl) (sysexStartCont_of_start y z _)
    have hrest : ∀ b ∈ ds ++ [0xF7#8], b ≠ 0xF0#8 :=
      List.forall_mem_append.mpr ⟨fun b hb => ne_sysexStart_of_data (hds b (.tail _ (.tail _ hb))), by simp⟩
    rw [List.length_cons, run_succ hstep]
    exact run_packetise_of_open hrest (by simp) (by simp [openOn_iff]) rfl

end Run

end Sys2Proof.Machine
end

section
/-! The statements of `42_usb_parser.md`: the result of each packet, what packets leave alone, and the SysEx message
cut into packets. -/

namespace Sys2Proof.Machine

/-- Settles O58: both streams push the bytes of the message to the accumulator they open (`run_packetise_sysexBytes`,
`run_sysexBytes`), and below its length such an accumulator holds the pushed bytes. -/
theorem usbSysexEqualsSerialSysex : Obligations.UsbSysexEqualsSerialSysex := by
  intro s cn ds hds
  obtain ⟨t, hrunT, hevT, hsxT, hserial⟩ :=
    run_packetise_sysexBytes (s := { s with input := usbEdges (packetise cn (sysexBytes ds)) }) hds rfl
  obtain ⟨u, hrunU, hevU, hsxU, -⟩ :=
    run_sysexBytes (s := { s with input := serialEdges (sysexBytes ds) }) (rest := []) hds (by simp)
  have hlength : (sysexBytes ds).length = ds.length + 2 := by simp [sysexBytes]
  refine ⟨t, u, hrunT, by rw [hlength, hrunU], hevT, hevU, ?_, fun i hi => ?_, by simp [hsxT], by simp [hsxU],
    hserial⟩
  · rw [hsxT, hsxU, SxAccumulator.close_len, SxAccumulator.close_len, SxAccumulator.opened_pushAll_len,
      SxAccumulator.opened_pushAll_len]
  · rw [hsxT, SxAccumulator.close_len, SxAccumulator.opened_pushAll_len] at hi
    rw [hsxT, hsxU, SxAccumulator.close_buf, SxAccumulator.close_buf, SxAccumulator.opened_pushAll_read _ _ hi,
      SxAccumulator.opened_pushAll_read _ _ hi]

/-- Settles O29: the seven packets run `CHANNEL_PACKET`, which has one arm. -/
theorem channelPacketResult : Obligations.ChannelPacketResult := fun s _ _ _ _ _ hi => exec_channelPacket hi s

/-- Settles O30: the four packets run the procedure that writes nothing after the event. -/
theorem reservedPacketResult : Obligations.ReservedPacketResult := fun s _ _ _ _ _ hi => exec_reserved hi s

/-- Settles O31: the three arms of code index 4. -/
theorem sysexStartContinueResult : Obligations.SysexStartContinueResult := by
  refine fun s cn p1 p2 p3 => ⟨?_, fun h1 ho hcn => ?_, fun h1 ho => ?_⟩
  · rintro rfl
    exact stepUsb_eq_of_procedure (sysexStartCont_of_start p2 p3 _)
  · exact stepUsb_eq_of_procedure (sysexStartCont_of_open p2 p3 _ h1 (openOn_iff.mpr ⟨ho, hcn⟩))
  · exact stepUsb_eq_of_procedure (sysexStartCont_of_not_open p2 p3 _ h1 (mt openOn_iff.mp ho))

/-- Settles O32: the three arms of code index 5. -/
theorem sysexEndOneResult : Obligations.SysexEndOneResult := by
  refine fun s cn p1 p2 p3 => ⟨?_, ?_, fun h1 => ?_⟩
  · rintro rfl ho hcn
    exact stepUsb_eq_of_procedure (sysexEndOne_of_open _ (openOn_iff.mpr ⟨ho, hcn⟩))
  · rintro rfl ho
    exact stepUsb_eq_of_procedure (sysexEndOne_of_not_open _ (mt openOn_iff.mp ho))
  · exact congrArg s.stepUsb (sysexEndOne_of_single h1)

/-- Settles O33: the three arms of the end packets, with two bytes. -/
theorem sysexEndTwoResult : Obligations.SysexEndTwoResult := by
  refine fun s cn p1 p2 p3 => ⟨?_, fun h1 ho hcn => ?_, fun h1 ho => ?_⟩
  · rintro rfl
    exact stepUsb_eq_of_procedure (sysexEndWith_of_start [p2] _)
  · exact stepUsb_eq_of_procedure (sysexEndWith_of_open [p2] _ h1 (openOn_iff.mpr ⟨ho, hcn⟩))
  · exact stepUsb_eq_of_procedure (sysexEndWith_of_not_open [p2] _ h1 (mt openOn_iff.mp ho))

/-- Settles O34: the three arms of the end packets, with three bytes. -/
theorem sysexEndThreeResult : Obligations.SysexEndThreeResult := by
  refine fun s cn p1 p2 p3 => ⟨?_, fun h1 ho hcn => ?_, fun h1 ho => ?_⟩
  · rintro rfl
    exact stepUsb_eq_of_procedure (sysexEndWith_of_start [p2, p3] _)
  · exact stepUsb_eq_of_procedure (sysexEndWith_of_open [p2, p3] _ h1 (openOn_iff.mpr ⟨ho, hcn⟩))
  · exact stepUsb_eq_of_procedure (sysexEndWith_of_not_open [p2, p3] _ h1 (mt openOn_iff.mp ho))

/-- Settles O35: the single-byte packet has one arm. -/
theorem singleBytePacketResult : Obligations.SingleBytePacketResult := fun _ _ _ _ _ => rfl

/-- Settles O40: none of the procedures writes the accumulator; code index 5 writes it only for a terminator. -/
theorem otherPacketsLeaveAnOpenMessage : Obligations.OtherPacketsLeaveAnOpenMessage := by
  rintro s cn p1 p2 p3 i (hi | hi | rfl | ⟨rfl, h1⟩)
  · exact ⟨_, exec_channelPacket hi s, rfl⟩
  · exact ⟨_, exec_reserved hi s, rfl⟩
  · exact ⟨_, rfl, rfl⟩
  · exact ⟨_, congrArg s.stepUsb (sysexEndOne_of_single h1), rfl⟩

/-- Settles O41: the procedure of each of the first seven packets is not given the padding; a header of type `0xC` or
`0xD` has one data byte. -/
theorem paddingDoesNotMatter : Obligations.PaddingDoesNotMatter := by
  refine fun s cn p1 p2 p3 q1 q2 q3 => ⟨rfl, rfl, rfl, rfl, rfl, rfl, rfl, fun ht => ?_, fun ht => ?_⟩
  all_goals
    have h1 : ndata p1 = some 1 := ndata_of_headerType (by simp [ht])
    exact exec_channelPacket_delivered_eq s cn p1 p2 p3 q3 h1 (by simp [channelPacketOps]) (by simp [channelPacketOps])

end Sys2Proof.Machine
end

section
/-! SUPPORT. Every input edge completes (`60_exceptions.md` R170), and only the two procedures of a single-byte
message, `REAL_TIME` and that of code index 0xF, emit `REALTIME_MESSAGE` (R173). -/

namespace Sys2Proof.Machine

/-- An input edge completes, and leaves the parameter and the edges after it alone. -/
theorem takeEdge_completes (e : Input) (s : State) :
    ∃ t, takeEdge e s = .next t ∧ t.cfg = s.cfg ∧ t.input = s.input := by
  cases he : e.isSerial with
  | true =>
    obtain ⟨f, hf⟩ := takeEdge_serial he
    exact ⟨_, hf s, rfl, rfl⟩
  | false =>
    obtain ⟨f, hf⟩ := takeEdge_usb he
    exact ⟨_, hf s, rfl, rfl⟩

/-! ### The Serial Parser -/

/-- The procedure, started with no event, does not emit `REALTIME_MESSAGE`. -/
def SerialParser.EmitsNoRealTime (f : Nat → SerialParser → SerialParser) : Prop :=
  ∀ cap p, p.event = .noMessage → (f cap p).event ≠ .realtimeMessage

namespace SerialParser

theorem EmitsNoRealTime.sysexEnd : EmitsNoRealTime sysexEnd := by
  intro cap p hev
  rw [sysexEnd_event hev]
  split <;> decide

/-- `CHANNEL_STATUS` begins with `SYSEX_END` and does not write `event` after it. -/
theorem EmitsNoRealTime.channelStatus (b : Byte) : EmitsNoRealTime (channelStatus b) :=
  EmitsNoRealTime.sysexEnd

theorem EmitsNoRealTime.sysexStart : EmitsNoRealTime sysexStart := fun _ _ hev h =>
  absurd (hev.symm.trans h) (by decide)

/-- Of the five arms of `DATA` (`41_serial_parser.md` R109) two emit, both `CHANNEL_MESSAGE`. -/
theorem EmitsNoRealTime.dataByte (b : Byte) : EmitsNoRealTime (dataByte b) := by
  intro cap p hev
  unfold Machine.dataByte
  split
  · simp [hev]
  · split
    · simp [hev]
    · split
      · split <;> simp [emitChannel, hev]
      · simp [emitChannel]

end SerialParser

/-- A serial operation whose event is `REALTIME_MESSAGE` runs `REAL_TIME`. -/
theorem exec_eq_realTime_of_event {s t : State} {i : Instr} (hi : i.agent = .serial) (he : exec i s = .next t)
    (hev : t.serial.event = .realtimeMessage) : ∃ b, exec i s = s.stepSerial (realTime b) := by
  obtain ⟨f, hf, hproc⟩ := exec_serial_procedure hi
  have emits : ¬ SerialParser.EmitsNoRealTime f := fun h =>
    h _ _ rfl ((congrArg SerialParser.event (serial_eq_of_exec (hf s) he)).symm.trans hev)
  rcases hproc with ⟨b, -, rfl⟩ | ⟨c, x, -, -, rfl⟩ | ⟨-, rfl⟩ | ⟨-, rfl⟩ | ⟨-, rfl⟩ | ⟨x, -, -, rfl⟩
  · exact absurd (.dataByte b) emits
  · exact absurd (.channelStatus x.2) emits
  · exact absurd .sysexStart emits
  · exact absurd (systemCommon_eq ▸ .channelStatus _) emits
  · exact absurd .sysexEnd emits
  · exact ⟨x.2, hf s⟩

/-! ### The USB Packet Parser -/

/-- The procedure of a packet, started with no event, does not emit `REALTIME_MESSAGE`. -/
def UsbParser.EmitsNoRealTime (f : Nat → UsbParser → UsbParser) : Prop :=
  ∀ cap p, p.event = .noMessage → (f cap p).event ≠ .realtimeMessage

namespace UsbParser

variable {cn : Nibble} {p1 p2 p3 : Byte}

theorem EmitsNoRealTime.ignoredPacket : EmitsNoRealTime ignoredPacket := fun _ _ hev h =>
  absurd (hev.symm.trans h) (by decide)

theorem EmitsNoRealTime.channelPacket : EmitsNoRealTime (channelPacket cn p1 p2 p3) := fun _ _ _ => nofun

/-- Code index 4 writes the accumulator alone. -/
theorem EmitsNoRealTime.sysexStartCont : EmitsNoRealTime (sysexStartCont cn p1 p2 p3) := by
  intro cap p hev
  rw [sysexStartCont_frame]
  simp [hev]

/-- Code index 5 with the terminator ends a message or is ignored. -/
theorem EmitsNoRealTime.sysexEndOne : EmitsNoRealTime (sysexEndOne cn 0xF7#8) := by
  intro cap p hev
  by_cases ho : openOn p.sx cn = true
  · simp [sysexEndOne_of_open cap ho]
  · simp [sysexEndOne_of_not_open cap ho, hev]

/-- Code indexes 6 and 7 deliver a whole message, end an open one or are ignored. -/
theorem EmitsNoRealTime.sysexEndWith {rest : List Byte} : EmitsNoRealTime (sysexEndWith cn p1 rest) := by
  intro cap p hev
  unfold Machine.sysexEndWith
  split
  · simp
  · split <;> simp [hev]

end UsbParser

/-- A packet whose event is `REALTIME_MESSAGE` delivers a single byte: code index 0xF, or code index 5 without the
terminator. -/
theorem exec_eq_singleByte_of_event {s t : State} {i : Instr} (hi : i.agent = .usb) (he : exec i s = .next t)
    (hev : t.usb.event = .realtimeMessage) : ∃ cn p1, exec i s = s.stepUsb (singleByte cn p1) := by
  obtain ⟨f, hf, cn, p1, p2, p3, hproc⟩ := exec_usb_procedure hi
  obtain ⟨-, -, -, husb⟩ := State.stepUsb_eq_next ((hf s).symm.trans he)
  have emits : ¬ UsbParser.EmitsNoRealTime f := fun h =>
    h _ _ rfl ((congrArg UsbParser.event husb).symm.trans hev)
  rcases hproc with ⟨-, rfl⟩ | ⟨-, rfl⟩ | ⟨-, rfl⟩ | ⟨-, rfl⟩ | ⟨-, rfl⟩ | ⟨-, rfl⟩ | ⟨-, rfl⟩
  · exact absurd .channelPacket emits
  · exact absurd .ignoredPacket emits
  · exact absurd .sysexStartCont emits
  · have h1 : p1 ≠ 0xF7#8 := by rintro rfl; exact emits .sysexEndOne
    exact ⟨cn, p1, sysexEndOne_of_single h1 ▸ hf s⟩
  · exact absurd .sysexEndWith emits
  · exact absurd .sysexEndWith emits
  · exact ⟨cn, p1, hf s⟩

end Sys2Proof.Machine
end

section
/-! The statements of `60_exceptions.md`: every step completes, and a real-time event disturbs nothing. -/

namespace Sys2Proof.Machine

/-- Settles O12: with no edge left the state is held; otherwise the step is the first edge's, which completes. -/
theorem everyStepCompletes : Obligations.EveryStepCompletes := by
  intro s
  cases hinput : s.input with
  | nil => exact ⟨s, step_of_nil hinput, hinput, rfl⟩
  | cons e rest =>
    obtain ⟨t, ht, hcfg, hrest⟩ := takeEdge_completes e { s with input := rest }
    exact ⟨t, (step_of_cons hinput).trans ht, hrest, hcfg⟩

/-- Settles O47: only `REAL_TIME` and the single-byte packet emit `REALTIME_MESSAGE`, and they write `rt_*` and
`event` alone. -/
theorem realTimeEventsDisturbNothing : Obligations.RealTimeEventsDisturbNothing := by
  refine fun s t i he => ⟨fun hi hev => ?_, fun hi hev => ?_⟩
  · obtain ⟨b, hx⟩ := exec_eq_realTime_of_event hi he hev
    cases hx.symm.trans he
    rfl
  · obtain ⟨cn, p1, hx⟩ := exec_eq_singleByte_of_event hi he hev
    cases hx.symm.trans he
    rfl

end Sys2Proof.Machine
end

section
/-! SUPPORT. The edge of a reset (`70_reset_and_hazards.md` R200, R201), the USB packet that opens a message, and the
packets of a cable that has none open (`42_usb_parser.md` R153 to R156). -/

namespace Sys2Proof.Machine

/-- No message is open and no running status is held after a reset. -/
@[simp] theorem controlState_atReset (n : Nat) : controlState (.atReset n) = .idle :=
  controlState_eq_idle.mpr ⟨rfl, rfl⟩

section Reset
variable {s : State} {valid : Bool} {rest : List Input}

/-- The edge of a reset resets the Serial Parser, whatever symbol stands beside it. -/
theorem step_of_serial_reset {b : Byte} (h : s.input = .serial true valid b :: rest) :
    step s = .next { s with input := rest }.resetSerial := step_of_cons h

/-- The edge of a reset resets the USB Packet Parser, whatever symbol stands beside it. -/
theorem step_of_usb_reset {w : PacketWord} (h : s.input = .usb true valid w :: rest) :
    step s = .next { s with input := rest }.resetUsb := step_of_cons h

end Reset

section Cables
variable {s t : State} {cn : Nibble} {p1 p2 p3 : Byte}

/-- A start packet opens a message of its cable, whatever was open. -/
theorem openOn_of_sysexStartPacket (he : exec (.cin4SysexStartCont cn 0xF0#8 p2 p3) s = .next t) :
    openOn t.usb.sx cn = true := by
  obtain ⟨-, -, -, husb⟩ := State.stepUsb_eq_next (f := sysexStartCont cn 0xF0#8 p2 p3) he
  rw [husb, sysexStartCont_of_start]
  simp [openOn_iff]

/-- A continuation or end packet of a cable with no message open only clears the event. -/
theorem exec_sysexPacket_of_not_open (h1 : p1 ≠ 0xF0#8) (ho : ¬ openOn s.usb.sx cn = true)
    {i : Instr} (hi : i ∈ [Instr.cin4SysexStartCont cn p1 p2 p3, .cin5SysexEnd1 cn 0xF7#8 p2 p3,
      .cin6SysexEnd2 cn p1 p2 p3, .cin7SysexEnd3 cn p1 p2 p3]) :
    exec i s = .next { s with usb := { s.usb with event := .noMessage } } := by
  simp only [List.mem_cons, List.not_mem_nil, or_false] at hi
  rcases hi with rfl | rfl | rfl | rfl
  · exact stepUsb_eq_of_procedure (sysexStartCont_of_not_open p2 p3 _ h1 ho)
  · exact stepUsb_eq_of_procedure (sysexEndOne_of_not_open _ ho)
  · exact stepUsb_eq_of_procedure (sysexEndWith_of_not_open [p2] _ h1 ho)
  · exact stepUsb_eq_of_procedure (sysexEndWith_of_not_open [p2, p3] _ h1 ho)

end Cables

end Sys2Proof.Machine
end

section
/-! The statements of `70_reset_and_hazards.md`: what a reset loads and discards, and what a SysEx start discards. -/

namespace Sys2Proof.Machine

/-- Settles O15: both parsers of the reset state are as their first reset leaves them. -/
theorem resetStateHoldsTheResetValues : Obligations.ResetStateHoldsTheResetValues :=
  ⟨rfl, rfl, rfl, rfl, rfl, rfl, controlState_atReset 0, rfl, rfl, rfl, rfl⟩

/-- Settles O16: the step of a reset edge is the reset of its instance. -/
theorem resetEdgeLoadsTheResetValues : Obligations.ResetEdgeLoadsTheResetValues :=
  ⟨fun s _ _ _ h => ⟨_, step_of_serial_reset h, rfl, rfl, rfl, rfl, rfl, rfl,
      controlState_atReset s.serial.resets, rfl, rfl, rfl⟩,
    fun _ _ _ _ h => ⟨_, step_of_usb_reset h, rfl, rfl, rfl, rfl, rfl, rfl, rfl⟩⟩

/-- Settles O17: both steps are the reset of the instance, in which the symbol does not occur. -/
theorem resetDiscardsTheSymbol : Obligations.ResetDiscardsTheSymbol := fun _ _ =>
  ⟨fun _ _ _ => (step_of_serial_reset rfl).trans (step_of_serial_reset rfl).symm,
    fun _ _ _ => (step_of_usb_reset rfl).trans (step_of_usb_reset rfl).symm⟩

/-- Settles O50: the message open after the start is of the start's cable, so none is open on any other. -/
theorem laterStartDiscardsTheOpenMessage : Obligations.LaterStartDiscardsTheOpenMessage := by
  intro s t cn other p2 p3 q1 q2 q3 hother h1 he
  obtain ⟨hcollecting, hcable⟩ := openOn_iff.mp (openOn_of_sysexStartPacket he)
  have hnot : ¬ openOn t.usb.sx other = true := fun ho =>
    hother ((openOn_iff.mp ho).2.symm.trans hcable)
  exact ⟨hcable, hcollecting, fun i hi => exec_sysexPacket_of_not_open h1 hnot hi⟩

end Sys2Proof.Machine
end
